-- ==== Sys2Proof/Word.lean ====
section
/-! DEFINITION. The words of the bus: one bit, one byte, and the 9-bit bus word (spec 30_encoding R60). -/

namespace Sys2Proof

/-- One line level or one recorded bit. -/
abbrev Bit := BitVec 1

/-- A presented or stored byte; bit 7 is the most significant (00_scope R8). -/
abbrev Byte := BitVec 8

/-- A bus word `W = (rs, byte)`: bit 8 is `rs`, bits 7..0 the byte (30_encoding R60). -/
abbrev BusWord := BitVec 9

end Sys2Proof
end

