-- ==== Sys2Proof/Config.lean ====
section
/-! DEFINITION. What a construction of the block fixes (00_scope R5, R6), and the tables the spec leaves unknown. -/

namespace Sys2Proof

/-- The transfer width of the bus (10_state R20). -/
inductive BusMode where
  | eight
  | four
  deriving DecidableEq, Repr

/-- The configured line count, 1 or 2 (00_scope R6). -/
inductive LineCount where
  | one
  | two
  deriving DecidableEq, Repr

namespace Config

/-- The construction options that set a reset value: `BUS_WIDTH_INIT` and `LINES_INIT` (00_scope R6).
The spec fixes no default for either, so every claim about reset is made for all of them. -/
structure Params where
  busWidthInit : BusMode
  linesInit : LineCount
  deriving DecidableEq, Repr

/-- The options the one state `State.reset` is built with.
PRESUMED `EIGHT` (the family's power-on width, 93_implementation_defined G21), log 3.
DESIGN CHOICE two lines, log 4. Unsafe: the spec leaves both open. -/
def chosen : Params := { busWidthInit := .eight, linesInit := .two }

/-- `CGRAM_INIT`: the rows of character-generator memory after reset, arbitrary 5-bit values about which
nothing is assumed (10_state R27). A free value: no body, log 6. -/
opaque cgramInit : Fin 8 → Fin 8 → BitVec 5

/-- `CGROM`: the glyph ROM, 96 glyphs of 8 rows of 8 bits, supplied at construction and never interpreted
by the block (10_state R14). A free value: no body, log 22. -/
opaque cgRom : Fin 96 → Fin 8 → Byte

/-- `VISIBLE_WIDTH` where the renderer is not configured otherwise (00_scope R6). -/
def visibleWidthDefault : Nat := 16

/-- `SPACE`: the code display memory is initialised and cleared to (00_scope R5). -/
def space : Byte := 0x20

/-- `CODE_ROM_BASE`: the first character code that indexes the ROM (00_scope R5). -/
def codeRomBase : Nat := 32

end Config

end Sys2Proof
end

