-- ==== Sys2Proof/Syntax.lean ====
section
/-! DEFINITION. The instruction set: one constructor per row of spec/opcode_table.json (30_encoding R63). -/

namespace Sys2Proof

/-- A direction of movement (41_address_counter R100). -/
inductive Direction where
  | left
  | right
  deriving DecidableEq, Repr

/-- The direction in which data writes run (10_state R16). -/
inductive TextDirection where
  | leftToRight
  | rightToLeft
  deriving DecidableEq, Repr

/-- The instructions. The bits a row ignores (30_encoding R68) are no operands. -/
inductive Instr where
  /-- No operation (42_commands R110). -/
  | nop
  /-- Clear display (R111). -/
  | clear
  /-- Return home (R112). -/
  | home
  /-- Entry mode set: the new text direction and whether writes shift the display (R113). -/
  | entry (dir : TextDirection) (shift : Bool)
  /-- Display control: display, cursor and blink flags (R114). -/
  | dispctl (d c b : Bool)
  /-- Cursor shift (R115). -/
  | curshift (dir : Direction)
  /-- Display shift (R116). -/
  | dispshift (dir : Direction)
  /-- Function set: bus width and the recorded line-count and font bits (R117). -/
  | funcset (width : BusMode) (n f : Bit)
  /-- Set CGRAM address (R118). -/
  | setcg (cell row : Fin 8)
  /-- Set DDRAM address: the 7-bit flat address (R119, R120). -/
  | setdd (a : BitVec 7)
  /-- Data write (43_data_write R130). -/
  | write (data : Byte)
  deriving DecidableEq, Repr

end Sys2Proof
end

