-- ==== Sys2Proof/WellFormed.lean ====
section
/-! DEFINITION. What an assembler accepts (30_encoding R72).
Every operand's range is its type's, but for SETDD: `line` 0..1 and `col` 0..39, and "an assembler rejects `col` > 39".
The decoder and the encoder take every flat address; a SETDD to a hole is an instruction that decodes (R69) and is not well formed. -/

namespace Sys2Proof

/-- The column bits of a flat address, `a[5:0]` (30_encoding R66). -/
def flatColumn (a : BitVec 7) : Nat := a.toNat % 64

/-- The instruction is one the assembler of 30_encoding R72 emits. -/
def Instr.wellFormed : Instr → Bool
  | .nop => true
  | .clear => true
  | .home => true
  | .entry _ _ => true
  | .dispctl _ _ _ => true
  | .curshift _ => true
  | .dispshift _ => true
  | .funcset _ _ _ => true
  | .setcg _ _ => true
  | .setdd a => decide (flatColumn a ≤ 39)
  | .write _ => true

end Sys2Proof
end

