-- ==== Sys2Proof/Decode.lean ====
section
/-! DEFINITION. Decoding a bus word, and the encoder written from the same tables (30_encoding R63, R65, R67).
The decoder is total: every one of the 512 bus words is an instruction (R64, R69); only a number that is no 9-bit word is rejected. -/

namespace Sys2Proof

/-! ### The parts of a bus word (30_encoding R60) -/

/-- The word made of a register-select level and a byte. -/
def busWord (rs : Bit) (byte : Byte) : BusWord := rs ++ byte

/-- The register-select level of a word, bit 8. -/
def rsOf (w : BusWord) : Bit := w.extractLsb' 8 1

/-- The byte of a word, bits 7..0. -/
def byteOf (w : BusWord) : Byte := w.extractLsb' 0 8

/-! ### One-bit fields (30_encoding R67; polarities are the spec's decisions D5, D6, D7, D10, log 14) -/

/-- `id`: 1 is `LeftToRight`. -/
def textDirectionOfBit (id : Bit) : TextDirection := if id = 1 then .leftToRight else .rightToLeft

def bitOfTextDirection : TextDirection → Bit
  | .leftToRight => 1
  | .rightToLeft => 0

/-- `s`, `d`, `c`, `b`: 1 is true. -/
def flagOfBit (b : Bit) : Bool := b = 1

def bitOfFlag (b : Bool) : Bit := if b then 1 else 0

/-- `rl`: 1 is `Right`. -/
def directionOfBit (rl : Bit) : Direction := if rl = 1 then .right else .left

def bitOfDirection : Direction → Bit
  | .right => 1
  | .left => 0

/-- `dl`: 1 is `EIGHT`. -/
def busModeOfBit (dl : Bit) : BusMode := if dl = 1 then .eight else .four

def bitOfBusMode : BusMode → Bit
  | .eight => 1
  | .four => 0

/-- One bit of a command byte, as a field. -/
def fieldBit (cmd : Byte) (i : Nat) : Bit := cmd.extractLsb' i 1

/-! ### Decoding -/

/-- The decode of a command byte, from bit 7 down, NOP the final arm (30_encoding R63, 60_exceptions R153). -/
def decodeCommand (cmd : Byte) : Instr :=
  if cmd.getLsbD 7 then .setdd (cmd.extractLsb' 0 7)
  else if cmd.getLsbD 6 then .setcg (cmd.extractLsb' 3 3).toFin (cmd.extractLsb' 0 3).toFin
  else if cmd.getLsbD 5 then .funcset (busModeOfBit (fieldBit cmd 4)) (fieldBit cmd 3) (fieldBit cmd 2)
  else if cmd.getLsbD 4 then
    (if cmd.getLsbD 3 then .dispshift (directionOfBit (fieldBit cmd 2)) else .curshift (directionOfBit (fieldBit cmd 2)))
  else if cmd.getLsbD 3 then
    .dispctl (flagOfBit (fieldBit cmd 2)) (flagOfBit (fieldBit cmd 1)) (flagOfBit (fieldBit cmd 0))
  else if cmd.getLsbD 2 then .entry (textDirectionOfBit (fieldBit cmd 1)) (flagOfBit (fieldBit cmd 0))
  else if cmd.getLsbD 1 then .home
  else if cmd.getLsbD 0 then .clear
  else .nop

/-- The decode of a bus word: `rs = 0` is a command, `rs = 1` a data byte (30_encoding R61, R62). -/
def decodeWord (w : BusWord) : Instr :=
  if rsOf w = 0 then decodeCommand (byteOf w) else .write (byteOf w)

/-- Why a number is no instruction: the only reason is that it is no 9-bit bus word (30_encoding R60). -/
inductive DecodeReject where
  | notABusWord
  deriving DecidableEq, Repr

/-- The decode of a number as a bus word. -/
def decodeNat (w : Nat) : Except DecodeReject Instr :=
  if w < 512 then .ok (decodeWord (BitVec.ofNat 9 w)) else .error .notABusWord

/-- The instruction the decoder reads from a word numbered as spec/opcode_table.json numbers it: bit 8 `rs`, bits 7..0 the byte.
Bits at and above `nbits` are 0. -/
def decodeTableWord (nbits w : Nat) : Option Instr :=
  match decodeNat (w % 2 ^ nbits) with
  | .ok i => some i
  | .error _ => none

/-! ### Encoding -/

/-- The bus word of an instruction, ignored bits 0 (30_encoding R65, R72). -/
def encode : Instr → BusWord
  | .nop => 0b000000000#9
  | .clear => 0b000000001#9
  | .home => 0b000000010#9
  | .entry dir shift => 0b0000001#7 ++ bitOfTextDirection dir ++ bitOfFlag shift
  | .dispctl d c b => 0b000001#6 ++ bitOfFlag d ++ bitOfFlag c ++ bitOfFlag b
  | .curshift dir => 0b000010#6 ++ bitOfDirection dir ++ 0b00#2
  | .dispshift dir => 0b000011#6 ++ bitOfDirection dir ++ 0b00#2
  | .funcset width n f => 0b0001#4 ++ bitOfBusMode width ++ n ++ f ++ 0b00#2
  | .setcg cell row => 0b001#3 ++ (BitVec.ofFin cell : BitVec 3) ++ (BitVec.ofFin row : BitVec 3)
  | .setdd a => 0b01#2 ++ a
  | .write data => 0b1#1 ++ data

/-! ### The opcode table as rows (spec/opcode_table.json: `w & mask = pattern`) -/

/-- The rows of the table, without operands. -/
inductive Mnemonic where
  | NOP | CLEAR | HOME | ENTRY | DISPCTL | CURSHIFT | DISPSHIFT | FUNCSET | SETCG | SETDD | WRITE
  deriving DecidableEq, Repr

/-- The row an instruction belongs to. -/
def Instr.mnemonic : Instr → Mnemonic
  | .nop => .NOP
  | .clear => .CLEAR
  | .home => .HOME
  | .entry _ _ => .ENTRY
  | .dispctl _ _ _ => .DISPCTL
  | .curshift _ => .CURSHIFT
  | .dispshift _ => .DISPSHIFT
  | .funcset _ _ _ => .FUNCSET
  | .setcg _ _ => .SETCG
  | .setdd _ => .SETDD
  | .write _ => .WRITE

/-- One row of the opcode table. -/
structure OpcodeRow where
  mnemonic : Mnemonic
  pattern : BusWord
  mask : BusWord
  deriving DecidableEq, Repr

/-- The word is one of the row's. -/
def OpcodeRow.covers (r : OpcodeRow) (w : BusWord) : Bool := w &&& r.mask = r.pattern

/-- The table of 30_encoding R63 with WRITE's row, in its order. -/
def opcodeRows : List OpcodeRow :=
  [ ⟨.NOP, 0x000, 0x1FF⟩, ⟨.CLEAR, 0x001, 0x1FF⟩, ⟨.HOME, 0x002, 0x1FE⟩, ⟨.ENTRY, 0x004, 0x1FC⟩,
    ⟨.DISPCTL, 0x008, 0x1F8⟩, ⟨.CURSHIFT, 0x010, 0x1F8⟩, ⟨.DISPSHIFT, 0x018, 0x1F8⟩, ⟨.FUNCSET, 0x020, 0x1E0⟩,
    ⟨.SETCG, 0x040, 0x1C0⟩, ⟨.SETDD, 0x080, 0x180⟩, ⟨.WRITE, 0x100, 0x100⟩ ]

/-! ### Assembler text (30_encoding R72, R73) -/

/-- The line and column the assembler writes for a flat address. -/
def flatLine (a : BitVec 7) : Nat := a.toNat / 64

def bitText (b : Bool) : String := if b then "1" else "0"

def directionText : Direction → String
  | .left => "L"
  | .right => "R"

/-- An instruction's line in the spec's syntax; a word the assembler would not emit is a `.word` (R73). -/
def Instr.asm : Instr → String
  | .nop => "NOP"
  | .clear => "CLEAR"
  | .home => "HOME"
  | .entry dir shift =>
    "ENTRY " ++ (match dir with | .leftToRight => "LTR" | .rightToLeft => "RTL") ++ ", " ++ (if shift then "SHIFT" else "NOSHIFT")
  | .dispctl d c b => "DISPCTL " ++ bitText d ++ ", " ++ bitText c ++ ", " ++ bitText b
  | .curshift dir => "CURSHIFT " ++ directionText dir
  | .dispshift dir => "DISPSHIFT " ++ directionText dir
  | .funcset width n f =>
    "FUNCSET " ++ (match width with | .eight => "8" | .four => "4") ++ ", " ++ bitText (flagOfBit n) ++ ", " ++ bitText (flagOfBit f)
  | .setcg cell row => "SETCG " ++ toString cell.val ++ ", " ++ toString row.val
  | .setdd a =>
    if flatColumn a ≤ 39 then "SETDD " ++ toString (flatLine a) ++ ", " ++ toString (flatColumn a)
    else ".word 0, " ++ toString (0x80 + a.toNat)
  | .write data => "WRITE " ++ toString data.toNat

end Sys2Proof
end

