-- ==== Sys2Proof/Machine/State.lean ====
section
/-! DEFINITION. The architectural state (10_state R10) as plain data, its reset value (10_state R25 to R32), and the reasons a step can stop. -/

namespace Sys2Proof.Machine

/-- A memory: (address, value) pairs in canonical form (`Memory.wf` in Machine/Ops.lean): addresses strictly rising, no entry
equal to what an unlisted address reads as. At width 8 a list of `Host.Cell`. -/
abbrev Memory (w : Nat) := List (Nat × BitVec w)

/-- The address counter: exactly one of two variants; the inactive one has no fields (10_state R15). -/
inductive AC where
  | display (line : Fin 2) (col : Fin 40)
  | charGen (cell row : Fin 8)
  deriving DecidableEq, Repr

/-- A tagged address of one element of one of the three memories (00_scope R8, 20_memory R40). -/
inductive Addr where
  | dd (line : Fin 2) (col : Fin 40)
  | cg (cell row : Fin 8)
  | rom (glyph : Fin 96) (row : Fin 8)
  deriving DecidableEq, Repr

/-- One pin event: the levels of `E`, `RS` and `DB[7:0]` (40_strobe_bus R81). -/
structure PinEvent where
  e : Bit
  rs : Bit
  db : Byte
  deriving DecidableEq, Repr

/-- The state of the block: the fields of 10_state R10, and the input still to come. -/
structure State where
  /-- Display memory, keyed by flat address (10_state R11, 20_memory R41). -/
  dd : Memory 8
  /-- Character-generator memory, keyed by `cell * 8 + row` (10_state R12, 20_memory R43). -/
  cg : Memory 5
  /-- The address counter (R15). -/
  ac : AC
  /-- `text_direction` (R16). -/
  textDirection : TextDirection
  /-- `auto_shift` (R17). -/
  autoShift : Bool
  /-- `display_on` (R18). -/
  displayOn : Bool
  /-- `cursor_on` (R18). -/
  cursorOn : Bool
  /-- `blink_on` (R18). -/
  blinkOn : Bool
  /-- `scroll_offset`, 0..39 (R19). -/
  scrollOffset : Fin 40
  /-- `bus_mode` (R20). -/
  busMode : BusMode
  /-- `pending`: `none`, or a byte whose low four bits are zero (R20). -/
  pending : Option Byte
  /-- `fs_lines` (R21). -/
  fsLines : Bit
  /-- `fs_font` (R21). -/
  fsFont : Bit
  /-- `e_prev` (R22). -/
  ePrev : Bit
  /-- The MODEL'S own field: the pin events the host is going to present, the next one first (40_strobe_bus R81; DESIGN CHOICE, log 1). -/
  pins : List PinEvent
  deriving DecidableEq, Repr

/-- The faults of the machine: there are none. "The block raises no exception, trap, fault or error, on any input"
(60_exceptions R150). Nobody raises one, so the type is empty; safe. -/
inductive Fault where
  deriving DecidableEq, Repr

/-- The reasons for which the model gives no next state. -/
inductive Refusal where
  /-- An instruction whose meaning is not written; raised by a refused arm of `exec`. Safe. -/
  | notModelled (mnemonic : String)
  /-- SETDD to a flat address that names no cell, the spec's own `refuse(SetDDOutOfRange)` (42_commands R120, decision D15).
  Raised by SETDD's meaning. Safe: the model allows less than any hardware that goes on. -/
  | setDDOutOfRange
  deriving DecidableEq, Repr

/-- `LINES_INIT - 1` (10_state R31). -/
def linesBit : LineCount → Bit
  | .one => 0
  | .two => 1

/-- The state after reset for given construction options (10_state R25 to R32; 70_reset_and_hazards R170).
`ac`, `fsFont` and `ePrev` are the spec's decisions D18, D21, D3 (DESIGN CHOICE, log 5).
No `cg` row is listed: what it reads as is `CGRAM_INIT` (R27, log 6). -/
def State.resetWith (p : Config.Params) : State :=
  { dd := []
    cg := []
    ac := .display 0 0
    textDirection := .leftToRight
    autoShift := false
    displayOn := true
    cursorOn := false
    blinkOn := false
    scrollOffset := 0
    busMode := p.busWidthInit
    pending := none
    fsLines := linesBit p.linesInit
    fsFont := 0
    ePrev := 0
    pins := [] }

/-- The state after reset of the block built with `Config.chosen` (log 3, 4). -/
def State.reset : State := State.resetWith Config.chosen

end Sys2Proof.Machine
end

