-- ==== Sys2Proof/Machine/Flags.lean ====
section
/-! DEFINITION. The control fields and their writers (10_state R23).
The block has no condition codes (10_state R35), so no flag is computed: "flags written" means these fields (42_commands). -/

namespace Sys2Proof.Machine

/-- The ENTRY fields. -/
def State.setEntry (s : State) (dir : TextDirection) (shift : Bool) : State :=
  { s with textDirection := dir, autoShift := shift }

/-- The DISPCTL fields. -/
def State.setDisplay (s : State) (d c b : Bool) : State :=
  { s with displayOn := d, cursorOn := c, blinkOn := b }

/-- The FUNC fields: bus width and the two recorded bits. -/
def State.setFunction (s : State) (mode : BusMode) (lines font : Bit) : State :=
  { s with busMode := mode, fsLines := lines, fsFont := font }

end Sys2Proof.Machine
end

