-- ==== Sys2Proof/Machine/Operands.lean ====
section
/-! DEFINITION. Operand forms: the flat address of SETDD, the addresses of the memories, the directions an instruction moves in. -/

namespace Sys2Proof.Machine

/-- The line and column of a flat address (30_encoding R66, 42_commands R119); the column is 0..63 here. -/
def splitFlat (a : BitVec 7) : Fin 2 × Nat :=
  if 0x40 ≤ a.toNat then (1, a.toNat - 0x40) else (0, a.toNat)

/-- The display cell a flat address names, if it names one (20_memory R41, R42). -/
def ddCell (a : BitVec 7) : Option (Fin 2 × Fin 40) :=
  if h : (splitFlat a).2 < 40 then some ((splitFlat a).1, ⟨(splitFlat a).2, h⟩) else none

/-- The flat address of a display cell, `line * 0x40 + col` (20_memory R41). -/
def ddKey (line : Fin 2) (col : Fin 40) : Nat := line.val * 0x40 + col.val

/-- The flat addresses that name a cell (20_memory R41, R42). -/
def ddMapped (a : Nat) : Bool := decide (a < 0x28) || (decide (0x40 ≤ a) && decide (a < 0x68))

/-- The 6-bit address of a CGRAM row, `cell * 8 + row` (20_memory R43). -/
def cgKey (cell row : Fin 8) : Nat := cell.val * 8 + row.val

/-- The CGRAM addresses: all 64 name a row (20_memory R43). -/
def cgMapped (a : Nat) : Bool := decide (a < 64)

/-- The element the address counter addresses; a data write stores there (43_data_write R130). -/
def acAddr : AC → Addr
  | .display line col => .dd line col
  | .charGen cell row => .cg cell row

/-- The direction opposite to a direction (00_scope R8). -/
def opposite : Direction → Direction
  | .left => .right
  | .right => .left

/-- `MoveDir`: the direction a text direction stands for (41_address_counter R101). -/
def moveDir : TextDirection → Direction
  | .leftToRight => .right
  | .rightToLeft => .left

end Sys2Proof.Machine
end

