-- ==== Sys2Proof/Machine/Ops.lean ====
section
/-! DEFINITION. The shared operations: memory, the address counter, the display offset, and the updates of single fields.
Taking an exception and returning from one are no operations of this hardware: it has no trap mechanism and no return from one (60_exceptions R156, R157). -/

namespace Sys2Proof.Machine

/-! ### Updates of single fields -/

def State.setDd (s : State) (m : Memory 8) : State := { s with dd := m }
def State.setCg (s : State) (m : Memory 5) : State := { s with cg := m }
def State.setAc (s : State) (ac : AC) : State := { s with ac := ac }
def State.setScroll (s : State) (off : Fin 40) : State := { s with scrollOffset := off }
def State.setPending (s : State) (p : Option Byte) : State := { s with pending := p }
def State.setEPrev (s : State) (e : Bit) : State := { s with ePrev := e }
def State.setPins (s : State) (evs : List PinEvent) : State := { s with pins := evs }

/-! ### Memories as lists in canonical form -/

/-- The value stored at an address, if the address is listed. -/
def memLookup {w : Nat} : Memory w → Nat → Option (BitVec w)
  | [], _ => none
  | (b, v) :: rest, a => if a = b then some v else memLookup rest a

/-- The memory with the address listed, in its place. -/
def memInsert {w : Nat} : Memory w → Nat → BitVec w → Memory w
  | [], a, v => [(a, v)]
  | (b, u) :: rest, a, v =>
    if a < b then (a, v) :: (b, u) :: rest
    else if a = b then (a, v) :: rest
    else (b, u) :: memInsert rest a v

/-- The memory without the address. -/
def memErase {w : Nat} : Memory w → Nat → Memory w
  | [], _ => []
  | (b, u) :: rest, a => if a = b then memErase rest a else (b, u) :: memErase rest a

/-- A store that keeps the canonical form: storing what an unlisted address reads as removes the entry. -/
def memStore {w : Nat} (unlisted : Option (BitVec w)) (m : Memory w) (a : Nat) (v : BitVec w) : Memory w :=
  if some v = unlisted then memErase m a else memInsert m a v

/-- Addresses strictly rising. -/
def memRising {w : Nat} : Memory w → Bool
  | [] => true
  | (a, _) :: rest => rest.all (fun c => decide (a < c.1)) && memRising rest

/-- The canonical form: addresses strictly rising, each of the memory's address map, no entry equal to what an unlisted address reads as. -/
def Memory.wf {w : Nat} (unlisted : Option (BitVec w)) (mapped : Nat → Bool) (m : Memory w) : Bool :=
  memRising m && m.all (fun c => mapped c.1 && decide (some c.2 ≠ unlisted))

/-- What an unlisted display cell reads as: the space code of reset and CLEAR (10_state R25, log 8). -/
def ddUnlisted : Option Byte := some Config.space

/-- What an unlisted CGRAM row holds: no stored value; its row is that of `CGRAM_INIT` (10_state R27, log 6, 7). -/
def cgUnlisted : Option (BitVec 5) := none

/-- Display memory is in canonical form. -/
def ddWf (s : State) : Bool := Memory.wf ddUnlisted ddMapped s.dd

/-- Character-generator memory is in canonical form. -/
def cgWf (s : State) : Bool := Memory.wf cgUnlisted cgMapped s.cg

/-! ### The access primitives (20_memory R47) -/

/-- The 5 bits a CGRAM row holds. -/
def cgRow (s : State) (cell row : Fin 8) : BitVec 5 :=
  (memLookup s.cg (cgKey cell row)).getD (Config.cgramInit cell row)

/-- `MemRead(addr, 1)`; bits [7:5] of a CGRAM row are 0. -/
def memRead : Addr → State → Byte
  | .dd line col, s => (memLookup s.dd (ddKey line col)).getD Config.space
  | .cg cell row, s => (cgRow s cell row).setWidth 8
  | .rom glyph row, _ => Config.cgRom glyph row

/-- `MemWrite(DD:(line,col), 1, v)`: all 8 bits are stored. -/
def memWriteDd (line : Fin 2) (col : Fin 40) (v : Byte) (s : State) : State :=
  s.setDd (memStore ddUnlisted s.dd (ddKey line col) v)

/-- `MemWrite(CG:(cell,row), 1, v)`: `v[4:0]` is stored (decision D16, log 17). -/
def memWriteCg (cell row : Fin 8) (v : Byte) (s : State) : State :=
  s.setCg (memStore cgUnlisted s.cg (cgKey cell row) (v.extractLsb' 0 5))

/-- The 80 stores of CLEAR, each of the space code, at once: no display cell stays listed (42_commands R111). -/
def clearDd (s : State) : State := s.setDd []

/-! ### Movement (41_address_counter) -/

/-- `ShiftAC` (R102 in Display mode; R103 in CharGen mode, where the cell wraps modulo 8, decision D14, log 11). -/
def shiftAC : Direction → AC → AC
  | .right, .display line col => if col = 39 then .display (1 - line) 0 else .display line (col + 1)
  | .left, .display line col => if col = 0 then .display (1 - line) 39 else .display line (col - 1)
  | .right, .charGen cell row => if row = 7 then .charGen (cell + 1) 0 else .charGen cell (row + 1)
  | .left, .charGen cell row => if row = 0 then .charGen (cell - 1) 7 else .charGen cell (row - 1)

/-- `DisplayShift`: the text moves toward the direction, the offset the other way, modulo 40 (R105, decisions D8, D32, log 12, 13). -/
def displayShift : Direction → Fin 40 → Fin 40
  | .left, off => off + 1
  | .right, off => off - 1

end Sys2Proof.Machine
end

