-- ==== Sys2Proof/Machine/Address.lean ====
section
/-! DEFINITION. SETCG, SETDD (42_commands R118 to R120). -/

namespace Sys2Proof.Machine

/-- SETCG: the counter addresses a CGRAM row (R118). -/
def execSetcg (cell row : Fin 8) (s : State) : Host.Outcome State Fault Refusal :=
  .next (s.setAc (.charGen cell row))

/-- SETDD: the counter addresses the display cell the flat address names (R119).
An address that names no cell has no successor state: the spec's `refuse(SetDDOutOfRange)` (R120, decision D15, log 9). -/
def execSetdd (a : BitVec 7) (s : State) : Host.Outcome State Fault Refusal :=
  match ddCell a with
  | some (line, col) => .next (s.setAc (.display line col))
  | none => .refused .setDDOutOfRange

end Sys2Proof.Machine
end

