-- ==== Sys2Proof/Machine/Basic.lean ====
section
/-! DEFINITION. NOP, CLEAR, HOME (42_commands R110 to R112). -/

namespace Sys2Proof.Machine

/-- NOP: nothing (R110). -/
def execNop (s : State) : Host.Outcome State Fault Refusal := .next s

/-- CLEAR: every display cell the space code, the counter at `Display{0,0}`, the offset 0 (R111). -/
def execClear (s : State) : Host.Outcome State Fault Refusal :=
  .next (((clearDd s).setAc (.display 0 0)).setScroll 0)

/-- HOME: the counter at `Display{0,0}`, the offset 0, memory unchanged (R112). -/
def execHome (s : State) : Host.Outcome State Fault Refusal :=
  .next ((s.setAc (.display 0 0)).setScroll 0)

end Sys2Proof.Machine
end

