-- ==== Sys2Proof/Machine/Control.lean ====
section
/-! DEFINITION. ENTRY, DISPCTL, FUNCSET: the instructions that write control fields (42_commands R113, R114, R117, R124). -/

namespace Sys2Proof.Machine

/-- ENTRY: the text direction and the auto-shift flag; nothing moves (R113). -/
def execEntry (dir : TextDirection) (shift : Bool) (s : State) : Host.Outcome State Fault Refusal :=
  .next (s.setEntry dir shift)

/-- DISPCTL: the three display flags (R114). -/
def execDispctl (d c b : Bool) (s : State) : Host.Outcome State Fault Refusal :=
  .next (s.setDisplay d c b)

/-- FUNCSET: the bus width of the next strobe on, no nibble pending, the two recorded bits (R117, decision D13, log 16). -/
def execFuncset (width : BusMode) (n f : Bit) (s : State) : Host.Outcome State Fault Refusal :=
  .next ((s.setFunction width n f).setPending none)

end Sys2Proof.Machine
end

