-- ==== Sys2Proof/Machine/DataWrite.lean ====
section
/-! DEFINITION. WRITE, the data write (43_data_write R130 to R134). -/

namespace Sys2Proof.Machine

/-- The offset after a data write in Display mode: under `auto_shift` the display moves opposite to the text direction,
so that the cursor's window position stays (R131, decision D9, log 12). -/
def autoShifted (s : State) : Fin 40 :=
  if s.autoShift then displayShift (opposite (moveDir s.textDirection)) s.scrollOffset else s.scrollOffset

/-- WRITE in Display mode: the store at the old counter, the offset, the counter (R131). -/
def writeDisplay (data : Byte) (line : Fin 2) (col : Fin 40) (s : State) : State :=
  ((memWriteDd line col data s).setScroll (autoShifted s)).setAc (shiftAC (moveDir s.textDirection) s.ac)

/-- WRITE in CharGen mode: the store of the low five bits at the old counter, the counter (R132). -/
def writeCharGen (data : Byte) (cell row : Fin 8) (s : State) : State :=
  (memWriteCg cell row data s).setAc (shiftAC (moveDir s.textDirection) s.ac)

/-- WRITE: which memory is written is the counter's variant (R130). -/
def execWrite (data : Byte) (s : State) : Host.Outcome State Fault Refusal :=
  match s.ac with
  | .display line col => .next (writeDisplay data line col s)
  | .charGen cell row => .next (writeCharGen data cell row s)

end Sys2Proof.Machine
end

