-- ==== Sys2Proof/Machine/Shift.lean ====
section
/-! DEFINITION. CURSHIFT, DISPSHIFT (42_commands R115, R116). -/

namespace Sys2Proof.Machine

/-- CURSHIFT: the counter moves in the command's own direction, in either variant (R115). -/
def execCurshift (dir : Direction) (s : State) : Host.Outcome State Fault Refusal :=
  .next (s.setAc (shiftAC dir s.ac))

/-- DISPSHIFT: the displayed text moves in the command's direction (R116). -/
def execDispshift (dir : Direction) (s : State) : Host.Outcome State Fault Refusal :=
  .next (s.setScroll (displayShift dir s.scrollOffset))

end Sys2Proof.Machine
end

