-- ==== Sys2Proof/Machine/Dispatch.lean ====
section
/-! DEFINITION. The meaning of every instruction, one arm each. -/

namespace Sys2Proof.Machine

def exec (i : Instr) (s : State) : Host.Outcome State Fault Refusal :=
  match i with
  | .nop => Sys2Proof.Machine.execNop s
  | .clear => Sys2Proof.Machine.execClear s
  | .home => Sys2Proof.Machine.execHome s
  | .entry dir shift => Sys2Proof.Machine.execEntry dir shift s
  | .dispctl d c b => Sys2Proof.Machine.execDispctl d c b s
  | .curshift dir => Sys2Proof.Machine.execCurshift dir s
  | .dispshift dir => Sys2Proof.Machine.execDispshift dir s
  | .funcset width n f => Sys2Proof.Machine.execFuncset width n f s
  | .setcg cell row => Sys2Proof.Machine.execSetcg cell row s
  | .setdd a => Sys2Proof.Machine.execSetdd a s
  | .write data => Sys2Proof.Machine.execWrite data s

end Sys2Proof.Machine
end

