-- ==== Sys2Proof/Machine/FrontEnd.lean ====
section
/-! DEFINITION. The front end: edge detector, strobe sampler, 4-bit bus assembler, dispatch (40_strobe_bus), and how a word is presented on the pins. -/

namespace Sys2Proof.Machine

/-- `Dispatch(rs, byte)`: the completed word is decoded and executed (R87). -/
def dispatchWord (rs : Bit) (byte : Byte) (s : State) : Host.Outcome State Fault Refusal :=
  exec (decodeWord (busWord rs byte)) s

/-- What is kept of the strobe that carries a high nibble: its upper four lines (R85, decision D11, log 15). -/
def highNibble (db : Byte) : Byte := db &&& 0xF0

/-- The byte assembled from the pending nibble and the second strobe's upper four lines (R86). -/
def assembleByte (h db : Byte) : Byte := h ||| (db >>> 4)

/-- `Strobe(rs, db)`, one atomic transition (R84 to R87).
The `rs` that counts in FOUR mode is that of the completing strobe (R89, decision D12, log 15). -/
def strobe (rs : Bit) (db : Byte) (s : State) : Host.Outcome State Fault Refusal :=
  match s.busMode with
  | .eight => dispatchWord rs db s
  | .four =>
    match s.pending with
    | none => .next (s.setPending (some (highNibble db)))
    | some h => dispatchWord rs (assembleByte h db) (s.setPending none)

/-- A pin event raises `E` (R82). -/
def rising (ePrev e : Bit) : Bool := decide (ePrev = 0) && decide (e = 1)

/-- `OnPins(e, rs, db)`: the level of `E` is kept, and a rising edge is a strobe with the levels of this very event (R82, R83, R88). -/
def onPins (ev : PinEvent) (s : State) : Host.Outcome State Fault Refusal :=
  if rising s.ePrev ev.e then strobe ev.rs ev.db (s.setEPrev ev.e) else .next (s.setEPrev ev.e)

/-- The next pin event of the input, taken off the input and handled; with none left the state stays as it is
(70_reset_and_hazards R178; DESIGN CHOICE, log 1). -/
def takePinEvent (s : State) : Host.Outcome State Fault Refusal :=
  match s.pins with
  | [] => .next s
  | ev :: rest => onPins ev (s.setPins rest)

/-- The strobes `(rs, db)` that deliver a word: one in EIGHT mode, two in FOUR mode, the high nibble first,
each nibble on the upper four lines (30_encoding R71). -/
def deliveryStrobes : BusMode → BusWord → List (Bit × Byte)
  | .eight, w => [(rsOf w, byteOf w)]
  | .four, w => [(rsOf w, highNibble (byteOf w)), (rsOf w, byteOf w <<< 4)]

/-- The state with a word about to be completed by the next pin event: `E` was low, the event raises it, and in FOUR mode the
word's high nibble is already pending (log 2). -/
def presentWord (w : BusWord) (s : State) : State :=
  match s.busMode with
  | .eight => (s.setEPrev 0).setPins (⟨1, rsOf w, byteOf w⟩ :: s.pins)
  | .four =>
    ((s.setEPrev 0).setPending (some (highNibble (byteOf w)))).setPins (⟨1, rsOf w, byteOf w <<< 4⟩ :: s.pins)

end Sys2Proof.Machine
end

