-- ==== Sys2Proof/Machine/Step.lean ====
section
/-! DEFINITION. One step of the machine: one pin event (40_strobe_bus R81, R82). -/

namespace Sys2Proof.Machine

/-- One step takes the next pin event of the input. -/
def step (s : State) : Host.Outcome State Fault Refusal := takePinEvent s

/-- The state whose very next step runs the bus word `w` (log 2). -/
def State.withFetchWord (s : State) (nbits w : Nat) : State :=
  presentWord (BitVec.ofNat 9 (w % 2 ^ nbits)) s

end Sys2Proof.Machine
end

