-- ==== Sys2Proof/Machine/Snapshot.lean ====
section
/-! DEFINITION. The snapshot port: the block's only output, and the two functions of the renderer's contract over it (44_snapshot). -/

namespace Sys2Proof.Machine

/-- The 8 rows of one glyph. -/
abbrev Glyph := Vector Byte 8

/-- What the renderer is given, and nothing else (44_snapshot R140, R141). -/
structure Snapshot where
  lines : Vector (Vector Byte 40) 2
  glyphMemory : Vector Glyph 8
  glyphRom : Vector Glyph 96
  scrollOffset : Fin 40
  displayOn : Bool
  cursorOn : Bool
  blinkOn : Bool
  deriving DecidableEq, Repr

/-- `Snapshot()`: every element read by `MemRead`; reading changes no state (R140, 20_memory R51). -/
def snapshot (s : State) : Snapshot :=
  { lines := Vector.ofFn fun l => Vector.ofFn fun c => memRead (.dd l c) s
    glyphMemory := Vector.ofFn fun k => Vector.ofFn fun r => memRead (.cg k r) s
    glyphRom := Vector.ofFn fun g => Vector.ofFn fun r => memRead (.rom g r) s
    scrollOffset := s.scrollOffset
    displayOn := s.displayOn
    cursorOn := s.cursorOn
    blinkOn := s.blinkOn }

/-- The outcome of resolving a character code (R142, R143). -/
inductive Resolution where
  /-- The code has this glyph. -/
  | glyph (rows : Glyph)
  /-- `ResolutionError(code)`, raised by the renderer for codes 8..31 (60_exceptions R152); no fault of the block. -/
  | resolutionError (code : Byte)
  /-- The spec gives codes 128..255 no value: refused (R143, decision D24, log 10). -/
  | noValue (code : Byte)
  deriving DecidableEq, Repr

/-- `Resolve(code)` over a snapshot (R142, R143). -/
def resolve (snap : Snapshot) (code : Byte) : Resolution :=
  if h : code.toNat < 8 then .glyph snap.glyphMemory[code.toNat]
  else if code.toNat < Config.codeRomBase then .resolutionError code
  else if h : code.toNat - Config.codeRomBase < 96 then .glyph snap.glyphRom[code.toNat - Config.codeRomBase]
  else .noValue code

/-- `Window(l)` for a visible width: the cells from the offset on, around the 40-cell line (R144). -/
def window (width : Nat) (snap : Snapshot) (l : Fin 2) : List Byte :=
  (List.range width).map fun j => (snap.lines[l.val])[(snap.scrollOffset + Fin.ofNat 40 j).val]

/-- The visible window of a renderer that is not configured otherwise: 16 cells (R144, decision D31, log 24). -/
def visibleWindow (snap : Snapshot) (l : Fin 2) : List Byte := window Config.visibleWidthDefault snap l

/-- The window position at which a column is drawn, `(col - offset) mod 40`, visible when below the width (R144). -/
def windowPosition (off col : Fin 40) : Fin 40 := col - off

/-- Some cell of the snapshot holds a code for which a renderer raises `ResolutionError` (60_exceptions R152). -/
abbrev Snapshot.hasInvalidCode (snap : Snapshot) : Prop :=
  ∃ l : Fin 2, ∃ c : Fin 40, 8 ≤ ((snap.lines[l.val])[c.val]).toNat ∧ ((snap.lines[l.val])[c.val]).toNat ≤ 31

end Sys2Proof.Machine
end

