-- ==== Sys2Proof/Safety.lean ====
section
/-! DEFINITION. The terms claims use: the invariant of 10_state R39, the write matrix of R24, which word an event completes, runs, and what the reader can see. -/

namespace Sys2Proof.Machine

/-! ### The invariant -/

/-- What 10_state R39 says that the types do not already say, and the canonical form of the memories:
`pending` is none or `0xN0`, EIGHT mode has nothing pending, both memories are canonical. -/
structure Invariant (s : State) : Prop where
  pendingNibble : ∀ h, s.pending = some h → h &&& 0x0F = 0
  eightNothingPending : s.busMode = .eight → s.pending = none
  ddCanonical : ddWf s = true
  cgCanonical : cgWf s = true

/-- The place of the counter in its ring: `line * 40 + col` of 80, or `cell * 8 + row` of 64 (20_memory R46, 41_address_counter R103). -/
def acIndex : AC → Nat
  | .display line col => line.val * 40 + col.val
  | .charGen cell row => cell.val * 8 + row.val

/-- The length of the counter's ring. -/
def acRing : AC → Nat
  | .display _ _ => 80
  | .charGen _ _ => 64

/-- The counter's variant: it is `Display` (10_state R15). -/
def isDisplay : AC → Bool
  | .display _ _ => true
  | .charGen _ _ => false

/-- The instructions of 20_memory R51 that are idempotent. -/
def idempotent : Mnemonic → Bool
  | .CURSHIFT => false
  | .DISPSHIFT => false
  | .WRITE => false
  | _ => true

/-! ### Words and pin events -/

/-- The bus word the next pin event completes, if it completes one (40_strobe_bus R82 to R86). -/
def completedWord (s : State) : Option BusWord :=
  match s.pins with
  | [] => none
  | ev :: _ =>
    if s.ePrev = 0 ∧ ev.e = 1 then
      match s.busMode, s.pending with
      | .eight, _ => some (busWord ev.rs ev.db)
      | .four, some h => some (busWord ev.rs (h ||| (ev.db >>> 4)))
      | .four, none => none
    else none

/-- The 48 words without a successor state: SETDD bytes 0xA8..0xBF and 0xE8..0xFF (42_commands R120). -/
def holeWord (w : BusWord) : Bool :=
  rsOf w = 0 && ((decide (0xA8 ≤ (byteOf w).toNat) && decide ((byteOf w).toNat ≤ 0xBF)) || decide (0xE8 ≤ (byteOf w).toNat))

/-- No event of the list raises `E`, when its level before was `e` (40_strobe_bus R82). -/
def noRisingEdge : Bit → List PinEvent → Bool
  | _, [] => true
  | e, ev :: rest => !(decide (e = 0) && decide (ev.e = 1)) && noRisingEdge ev.e rest

/-- The level of `E` after the events. -/
def lastLevel : Bit → List PinEvent → Bit
  | e, [] => e
  | _, ev :: rest => lastLevel ev.e rest

/-- The two pulses of one nibble-wise transfer: `E` rises with the high nibble, falls, rises with the low one (30_encoding R71). -/
def nibblePair (rs0 rs : Bit) (db0 db : Byte) (idle : PinEvent) : List PinEvent :=
  [⟨1, rs0, db0⟩, { idle with e := 0 }, ⟨1, rs, db⟩]

/-! ### Runs -/

/-- Instructions one after the other, each from the state the one before left (20_memory R52). -/
def execAll : List Instr → State → Host.Outcome State Fault Refusal
  | [], s => .next s
  | i :: rest, s =>
    match exec i s with
    | .next t => execAll rest t
    | .fault r => .fault r
    | .refused r => .refused r

/-- Strobes one after the other, each from the state the one before left (20_memory R52). -/
def strobeAll : List (Bit × Byte) → State → Host.Outcome State Fault Refusal
  | [], s => .next s
  | (rs, db) :: rest, s =>
    match strobe rs db s with
    | .next t => strobeAll rest t
    | .fault r => .fault r
    | .refused r => .refused r

/-- The 80 display cells, line by line. -/
def displayCells : List (Fin 2 × Fin 40) := (List.finRange 2).flatMap fun l => (List.finRange 40).map fun c => (l, c)

/-- `n` steps of the machine, stopping at the first that gives no state. -/
def runSteps : Nat → State → Host.Outcome State Fault Refusal
  | 0, s => .next s
  | n + 1, s =>
    match step s with
    | .next t => runSteps n t
    | .fault r => .fault r
    | .refused r => .refused r

/-- A run of `n` steps is safe when it reaches a state: no word it completes is one of the 48 without a successor. -/
def safeRun (n : Nat) (s : State) : Prop := ∃ t, runSteps n s = .next t

/-- A list of snapshots a reader can have taken during a run from `s`: each of the state after some number of steps,
the numbers non-decreasing; the block does not choose them (20_memory R53, 44_snapshot R145, log 21). -/
def readerSees (s : State) (snaps : List Snapshot) : Prop :=
  ∃ ns : List Nat, ns.Pairwise (· ≤ ·) ∧
    List.Forall₂ (fun n snap => ∃ t, runSteps n s = .next t ∧ snap = snapshot t) ns snaps

/-! ### The write matrix (10_state R24) -/

/-- The groups of fields that are the rows of the matrix; the two fields no instruction writes make a last row. -/
inductive FieldGroup where
  | dd | cg | ac | entry | display | scroll | function | pending | input
  deriving DecidableEq, Repr

/-- The instruction may change the group. -/
def mayWrite : FieldGroup → Mnemonic → Bool
  | .dd, i => i == .CLEAR || i == .WRITE
  | .cg, i => i == .WRITE
  | .ac, i => i == .CLEAR || i == .HOME || i == .CURSHIFT || i == .SETCG || i == .SETDD || i == .WRITE
  | .entry, i => i == .ENTRY
  | .display, i => i == .DISPCTL
  | .scroll, i => i == .CLEAR || i == .HOME || i == .DISPSHIFT || i == .WRITE
  | .function, i => i == .FUNCSET
  | .pending, i => i == .FUNCSET
  | .input, _ => false

/-- The group has the same value in both states; memories are compared by what every address reads as. -/
def sameGroup : FieldGroup → State → State → Prop
  | .dd, s, t => ∀ l c, memRead (.dd l c) t = memRead (.dd l c) s
  | .cg, s, t => ∀ k r, memRead (.cg k r) t = memRead (.cg k r) s
  | .ac, s, t => t.ac = s.ac
  | .entry, s, t => t.textDirection = s.textDirection ∧ t.autoShift = s.autoShift
  | .display, s, t => t.displayOn = s.displayOn ∧ t.cursorOn = s.cursorOn ∧ t.blinkOn = s.blinkOn
  | .scroll, s, t => t.scrollOffset = s.scrollOffset
  | .function, s, t => t.busMode = s.busMode ∧ t.fsLines = s.fsLines ∧ t.fsFont = s.fsFont
  | .pending, s, t => t.pending = s.pending
  | .input, s, t => t.ePrev = s.ePrev ∧ t.pins = s.pins

/-- Every group but those of the list has the same value in both states. -/
def sameExcept (changed : List FieldGroup) (s t : State) : Prop :=
  ∀ g : FieldGroup, g ∉ changed → sameGroup g s t

/-- The two states agree on everything but the fields no rule of the block reads: the display flags and the recorded bits (10_state R18, R21). -/
def agreeButInert (s t : State) : Prop :=
  ∃ d c b lines font, t = (s.setDisplay d c b).setFunction s.busMode lines font

end Sys2Proof.Machine
end

