-- ==== Sys2Proof/Certificates/Slice0/Obligations.lean ====
section
/-! DEFINITION. The statements for the provers. Each docstring names the rule of spec/ it formalises; where a clause rests on a decision of
spec/92_eei_decisions.md or on a choice of the model, it says so.
`sameExcept gs s t` (Safety.lean) is the frame: every field and every byte of memory outside the groups `gs` is the same in `t` as in `s`. -/

section

open Sys2Proof Sys2Proof.Machine

/-! ### Encoding -/

/-- Words written out from the patterns of 30_encoding R63, R65 decode to the instruction they stand for (polarities: decisions D5, D6, D7, D10, log 14). -/
def Obligations.WrittenOutWordsDecode : Prop :=
  decodeWord 0b000000000#9 = .nop ∧ decodeWord 0b000000001#9 = .clear ∧ decodeWord 0b000000011#9 = .home ∧
  decodeWord 0b000000110#9 = .entry .leftToRight false ∧ decodeWord 0b000001101#9 = .dispctl true false true ∧
  decodeWord 0b000010011#9 = .curshift .left ∧ decodeWord 0b000011100#9 = .dispshift .right ∧
  decodeWord 0b000101000#9 = .funcset .four 1 0 ∧ decodeWord 0b001001111#9 = .setcg 1 7 ∧
  decodeWord 0b011000101#9 = .setdd 0b1000101#7 ∧ decodeWord 0b110100101#9 = .write 0b10100101#8

/-- Decode of encode is the instruction, for every instruction and every operand, the SETDD holes among them (30_encoding R60 to R67). -/
def Obligations.DecodeOfEncodeIsTheInstruction : Prop :=
  ∀ i : Instr, decodeWord (encode i) = i

/-- Encode of decode is the word with its ignored bits cleared: bit 0 of HOME, bits 1 and 0 of the shift rows and of FUNCSET, no bit of any other word
(30_encoding R68, decision D17, log 18). -/
def Obligations.EncodeOfDecodeClearsIgnoredBits : Prop :=
  ∀ w : BusWord,
    (w.toNat = 2 ∨ w.toNat = 3 → encode (decodeWord w) = w &&& 0x1FE) ∧
    (0x10 ≤ w.toNat ∧ w.toNat < 0x40 → encode (decodeWord w) = w &&& 0x1FC) ∧
    (¬(w.toNat = 2 ∨ w.toNat = 3) ∧ ¬(0x10 ≤ w.toNat ∧ w.toNat < 0x40) → encode (decodeWord w) = w)

/-- Every word is covered by exactly one row, the row the decoder chooses; the order in which the rows are tried does not matter; the classes of command
bytes have the sizes of the table (30_encoding R63, R64). -/
def Obligations.EveryWordIsOfExactlyOneRow : Prop :=
  (∀ w : BusWord, (opcodeRows.filter (fun r => r.covers w)).map OpcodeRow.mnemonic = [(decodeWord w).mnemonic]) ∧
  (∀ (rows : List OpcodeRow) (w : BusWord), rows.Perm opcodeRows →
    (rows.find? (fun r => r.covers w)).map OpcodeRow.mnemonic = some (decodeWord w).mnemonic) ∧
  ([.NOP, .CLEAR, .HOME, .ENTRY, .DISPCTL, .CURSHIFT, .DISPSHIFT, .FUNCSET, .SETCG, .SETDD].map (fun m : Mnemonic =>
    ((List.range 256).filter (fun b => (decodeCommand (BitVec.ofNat 8 b)).mnemonic == m)).length) =
      [1, 1, 2, 4, 8, 8, 8, 32, 64, 128])

/-- The assembler rejects exactly the SETDDs whose address names no cell. The assembler and its syntax are the spec's own, not its source's
(30_encoding R72, decision D26; DESIGN CHOICE, log 25). -/
def Obligations.IllFormedIsASetddHole : Prop :=
  ∀ i : Instr, i.wellFormed = false ↔ ∃ a, i = .setdd a ∧ ddCell a = none

/-! ### The front end -/

/-- Edge detection (40_strobe_bus R82); the reset value of `e_prev` is the spec's decision D3 (log 5); the input list is the model's (log 1). -/
def Obligations.RisingEdgeIsAStrobe : Prop :=
  (∀ s ev rest, s.pins = ev :: rest → s.ePrev = 0 → ev.e = 1 →
    step s = strobe ev.rs ev.db { s with ePrev := ev.e, pins := rest }) ∧
  (∀ s ev rest, s.pins = ev :: rest → ¬(s.ePrev = 0 ∧ ev.e = 1) →
    step s = .next { s with ePrev := ev.e, pins := rest }) ∧
  (∀ p, (State.resetWith p).ePrev = 0)

/-- "A pin event that is not a rising edge changes `e_prev` and nothing else" (40_strobe_bus R88): a fall, `E` staying high, `E` staying low. -/
def Obligations.OtherEventsChangeOnlyTheLevel : Prop :=
  ∀ s e rs db rest, s.pins = ⟨e, rs, db⟩ :: rest →
    (s.ePrev = 1 ∧ e = 0) ∨ (s.ePrev = 1 ∧ e = 1) ∨ (s.ePrev = 0 ∧ e = 0) →
    step s = .next { s with ePrev := e, pins := rest }

/-- Any number of events without a rising edge changes the level of `E` and nothing else: a pending nibble waits through all of them (40_strobe_bus R88, R90). -/
def Obligations.QuietEventsKeepThePendingNibble : Prop :=
  ∀ evs s rest, s.pins = evs ++ rest → noRisingEdge s.ePrev evs = true →
    runSteps evs.length s = .next { s with ePrev := lastLevel s.ePrev evs, pins := rest }

/-- With no event to come the state stays as it is (70_reset_and_hazards R178; the idle step is the model's choice, log 1). -/
def Obligations.NoEventNoChange : Prop :=
  ∀ s n, s.pins = [] → runSteps n s = .next s

/-- EIGHT mode (40_strobe_bus R84): all 8 bits are the byte, and `pending` stays NONE. -/
def Obligations.EightModeDeliversTheWholeByte : Prop :=
  ∀ s rs db, s.busMode = .eight →
    strobe rs db s = dispatchWord rs db s ∧
    (s.pending = none → ∀ t, strobe rs db s = .next t → t.pending = none)

/-- FOUR mode, high-nibble phase (40_strobe_bus R85): the nibble is kept and nothing else happens, whatever `rs` is (the mask is decision D11, log 15). -/
def Obligations.FourModeFirstStrobeKeepsTheNibble : Prop :=
  ∀ s rs db, s.busMode = .four → s.pending = none →
    strobe rs db s = .next { s with pending := some (db &&& 0xF0) }

/-- FOUR mode, low-nibble phase (40_strobe_bus R86): the assembled byte is dispatched, `pending` is NONE whatever the instruction; 0xA0 then 0x50 is 0xA5. -/
def Obligations.FourModeSecondStrobeDispatchesTheByte : Prop :=
  (∀ s rs db h, s.busMode = .four → s.pending = some h →
    strobe rs db s = dispatchWord rs (h ||| (db >>> 4)) { s with pending := none } ∧
    (∀ t, strobe rs db s = .next t → t.pending = none)) ∧
  (∀ s rs, s.busMode = .four → s.pending = some 0xA0 →
    strobe rs 0x50 s = dispatchWord rs 0xA5 { s with pending := none })

/-- Dispatch (40_strobe_bus R87): a command byte goes to the decoder, a data byte to the data write. -/
def Obligations.DispatchSelectsByRegisterSelect : Prop :=
  ∀ s byte, dispatchWord 0 byte s = exec (decodeCommand byte) s ∧ dispatchWord 1 byte s = exec (.write byte) s

/-- A step whose event completes a word that decodes to `i` is `exec i`, after the event is taken, the level of `E` kept and the nibble consumed;
a step whose event completes none runs nothing (40_strobe_bus R82 to R87). -/
def Obligations.StepRunsTheDecodedInstruction : Prop :=
  (∀ s w i, completedWord s = some w → decodeWord w = i →
    step s = exec i { s with
      pins := s.pins.tail, ePrev := 1,
      pending := match s.busMode with | .eight => s.pending | .four => none }) ∧
  (∀ s, completedWord s = none → ∃ t, step s = .next t ∧ t.pins = s.pins.tail ∧ sameExcept [.pending, .input] s t)

/-- The very next step of `s.withFetchWord 16 w` runs the instruction `decodeTableWord 16 w` gives (the model's way to place a word, log 2). -/
def Obligations.FetchWordIsRunByTheNextStep : Prop :=
  ∀ (s : State) (w : Nat), w < 512 → ∃ i, decodeTableWord 16 w = some i ∧
    step (s.withFetchWord 16 w) = exec i { s with
      ePrev := 1, pending := match s.busMode with | .eight => s.pending | .four => none }

/-- The pins deliver a word in FOUR mode by two pulses: whatever the low lines and the first `rs` are, the third event runs the one word
(30_encoding R71; 40_strobe_bus R86, R89; decisions D11, D12, log 15). -/
def Obligations.TwoPulsesRunOneWord : Prop :=
  ∀ (s : State) (rs0 rs : Bit) (hi lo x y : BitVec 4) (idle : PinEvent) (rest : List PinEvent),
    s.busMode = .four → s.pending = none → s.ePrev = 0 →
    s.pins = nibblePair rs0 rs (hi ++ x) (lo ++ y) idle ++ rest →
    runSteps 3 s = exec (decodeWord (busWord rs (hi ++ lo))) { s with pins := rest, ePrev := 1 }

/-- The strobes that deliver a word run exactly that word on exactly that state, in either mode: the two-strobe form is a transfer form, not a second
encoding (30_encoding R71). -/
def Obligations.DeliveryRunsTheWordInEitherMode : Prop :=
  ∀ s w, s.pending = none → strobeAll (deliveryStrobes s.busMode w) s = exec (decodeWord w) s

/-- The new width governs the next strobe: after FUNCSET to FOUR it is a high nibble, after FUNCSET to EIGHT a whole byte (40_strobe_bus R91, decision D13, log 16). -/
def Obligations.NewWidthGovernsTheNextStrobe : Prop :=
  ∀ s n f rs db,
    (∃ t, exec (.funcset .four n f) s = .next t ∧ strobe rs db t = .next { t with pending := some (db &&& 0xF0) }) ∧
    (∃ t, exec (.funcset .eight n f) s = .next t ∧ strobe rs db t = dispatchWord rs db t)

/-- No input stops the block but the 48 SETDD words, which are refused (60_exceptions R150; the refusal is decision D15, log 9). -/
def Obligations.StepAnswersUnlessASetddHole : Prop :=
  ∀ s, (∀ f, step s ≠ .fault f) ∧
    ((∀ w, completedWord s = some w → holeWord w = false) → ∃ t, step s = .next t) ∧
    (∀ w, completedWord s = some w → holeWord w = true → step s = .refused .setDDOutOfRange)

/-! ### Reset -/

/-- Every cell of display memory holds the space code after reset (10_state R25). -/
def Obligations.ResetDisplayMemoryIsSpaces : Prop :=
  ∀ p l c, memRead (.dd l c) (State.resetWith p) = 0x20

/-- The entry and display defaults after reset (10_state R26). -/
def Obligations.ResetEntryAndDisplayDefaults : Prop :=
  ∀ p, (State.resetWith p).textDirection = .leftToRight ∧ (State.resetWith p).autoShift = false ∧
    (State.resetWith p).displayOn = true ∧ (State.resetWith p).cursorOn = false ∧ (State.resetWith p).blinkOn = false ∧
    (State.resetWith p).scrollOffset = 0

/-- Nothing is pending after reset, so in FOUR mode the first strobe after reset is a high-nibble strobe (10_state R29). -/
def Obligations.ResetNothingPending : Prop :=
  ∀ p, (State.resetWith p).pending = none ∧
    (p.busWidthInit = .four → ∀ rs db, ∃ h, strobe rs db (State.resetWith p) = .next { State.resetWith p with pending := some h } ∧
      h.extractLsb' 4 4 = db.extractLsb' 4 4)

/-- The reset values the spec decides or leaves to the construction: counter (D18), edge bit (D3), recorded bits (D21), bus width (D20), CGRAM (D19), and
the options the model's one `State.reset` is built with (log 3, 4, 5, 6: the model's choice). -/
def Obligations.ResetChosenValues : Prop :=
  (∀ p, (State.resetWith p).ac = .display 0 0 ∧ (State.resetWith p).ePrev = 0 ∧ (State.resetWith p).fsFont = 0 ∧
    (State.resetWith p).busMode = p.busWidthInit ∧
    (p.linesInit = .one → (State.resetWith p).fsLines = 0) ∧ (p.linesInit = .two → (State.resetWith p).fsLines = 1) ∧
    (∀ k r, memRead (.cg k r) (State.resetWith p) = (Config.cgramInit k r).setWidth 8)) ∧
  State.reset = State.resetWith { busWidthInit := .eight, linesInit := .two }

/-- The invariant holds after reset, for every choice of the construction options (10_state R39). -/
def Obligations.ResetMeetsTheInvariant : Prop :=
  (∀ p, Invariant (State.resetWith p)) ∧ Invariant State.reset

/-- Every step keeps the invariant (10_state R39): `pending` is none or `0xN0`, nothing is pending in EIGHT mode, both memories stay canonical. -/
def Obligations.StepKeepsTheInvariant : Prop :=
  ∀ s t, Invariant s → step s = .next t → Invariant t

/-! ### Commands -/

/-- NOP (42_commands R110): the one command byte without a set bit; no state change; sent as a nibble pair it leaves the assembler's `pending` NONE. -/
def Obligations.NopChangesNothing : Prop :=
  (∀ byte, decodeCommand byte = .nop ↔ byte = 0) ∧ (∀ s, exec .nop s = .next s) ∧
  (∀ (s : State) (h db : Byte), s.busMode = .four → s.pending = some h → h ||| (db >>> 4) = 0 → strobe 0 db s = .next { s with pending := none })

/-- CLEAR (42_commands R111). -/
def Obligations.ClearResetsDisplayCounterAndOffset : Prop :=
  decodeWord 0b000000001#9 = .clear ∧
  ∀ s, ∃ t, exec .clear s = .next t ∧ (∀ l c, memRead (.dd l c) t = 0x20) ∧ t.ac = .display 0 0 ∧ t.scrollOffset = 0 ∧
    sameExcept [.dd, .ac, .scroll] s t

/-- CLEAR is its 80 stores of the space code, on a memory in canonical form (42_commands R111, 20_memory R50). -/
def Obligations.ClearIsEightyStores : Prop :=
  ∀ s, ddWf s = true → displayCells.length = 80 ∧ clearDd s = displayCells.foldl (fun u lc => memWriteDd lc.1 lc.2 0x20 u) s

/-- HOME (42_commands R112): both its bytes. -/
def Obligations.HomeResetsCounterAndOffset : Prop :=
  decodeWord 0b000000010#9 = .home ∧ decodeWord 0b000000011#9 = .home ∧
  ∀ s, ∃ t, exec .home s = .next t ∧ t.ac = .display 0 0 ∧ t.scrollOffset = 0 ∧ sameExcept [.ac, .scroll] s t

/-- ENTRY (42_commands R113; polarities decision D5, log 14). -/
def Obligations.EntrySetsDirectionAndAutoShift : Prop :=
  (∀ id s : Bit, decodeWord (0b0000001#7 ++ id ++ s) = .entry (if id = 1 then .leftToRight else .rightToLeft) (s = 1)) ∧
  ∀ d sh s, ∃ t, exec (.entry d sh) s = .next t ∧ t.textDirection = d ∧ t.autoShift = sh ∧ sameExcept [.entry] s t

/-- DISPCTL (42_commands R114; polarities decision D6, log 14). -/
def Obligations.DispctlSetsTheThreeFlags : Prop :=
  (∀ d c b : Bit, decodeWord (0b000001#6 ++ d ++ c ++ b) = .dispctl (d = 1) (c = 1) (b = 1)) ∧
  ∀ d c b s, ∃ t, exec (.dispctl d c b) s = .next t ∧ t.displayOn = d ∧ t.cursorOn = c ∧ t.blinkOn = b ∧ sameExcept [.display] s t

/-- CURSHIFT (42_commands R115; polarities decision D7, log 14; ignored bits D17): the counter moves in the command's direction, in either variant. -/
def Obligations.CurshiftMovesTheCounter : Prop :=
  (∀ (rl : Bit) (x : BitVec 2), decodeWord (0b000010#6 ++ rl ++ x) = .curshift (if rl = 1 then .right else .left)) ∧
  ∀ d s, ∃ t, exec (.curshift d) s = .next t ∧ t.ac = shiftAC d s.ac ∧ sameExcept [.ac] s t

/-- ShiftAC in Display mode (41_address_counter R102): one column, and past either bound the opposite bound and the other line. -/
def Obligations.DisplayCounterMovesAndFlipsTheLine : Prop :=
  ∀ (line : Fin 2) (col : Fin 40),
    (col.val = 39 → ∃ l', shiftAC .right (.display line col) = .display l' 0 ∧ l'.val = 1 - line.val) ∧
    (col.val < 39 → ∃ c', shiftAC .right (.display line col) = .display line c' ∧ c'.val = col.val + 1) ∧
    (col.val = 0 → ∃ l', shiftAC .left (.display line col) = .display l' 39 ∧ l'.val = 1 - line.val) ∧
    (0 < col.val → ∃ c', shiftAC .left (.display line col) = .display line c' ∧ c'.val = col.val - 1)

/-- ShiftAC in CharGen mode (41_address_counter R103): one row, and past either bound the opposite bound and the neighbouring cell, modulo 8 (decision D14, log 11). -/
def Obligations.CharGenCounterMovesWithCellCarry : Prop :=
  ∀ cell row : Fin 8,
    (row.val = 7 → ∃ k', shiftAC .right (.charGen cell row) = .charGen k' 0 ∧ k'.val = (cell.val + 1) % 8) ∧
    (row.val < 7 → ∃ r', shiftAC .right (.charGen cell row) = .charGen cell r' ∧ r'.val = row.val + 1) ∧
    (row.val = 0 → ∃ k', shiftAC .left (.charGen cell row) = .charGen k' 7 ∧ k'.val = (cell.val + 7) % 8) ∧
    (0 < row.val → ∃ r', shiftAC .left (.charGen cell row) = .charGen cell r' ∧ r'.val = row.val - 1)

/-- The counter walks a ring, of 80 cells or of 64 rows: Right adds one to its index, Left subtracts one, and the variant stays
(20_memory R46, 41_address_counter R103, R104). -/
def Obligations.CounterWalksARing : Prop :=
  ∀ a, acIndex (shiftAC .right a) = (acIndex a + 1) % acRing a ∧ acIndex (shiftAC .left a) = (acIndex a + (acRing a - 1)) % acRing a ∧
    isDisplay (shiftAC .right a) = isDisplay a ∧ isDisplay (shiftAC .left a) = isDisplay a

/-- Left and Right are inverse to each other, and a whole ring of moves in one direction returns (41_address_counter R104; decision D14, log 11). -/
def Obligations.CounterMovesAreInverseAndPeriodic : Prop :=
  ∀ a d, shiftAC (opposite d) (shiftAC d a) = a ∧ (shiftAC d)^[acRing a] a = a

/-- DISPSHIFT (42_commands R116, 41_address_counter R105; decisions D7, D8, D32, log 12, 13, 14): the offset moves modulo 40 against the named direction,
every column is drawn one place further in that direction, and forty shifts return. -/
def Obligations.DispshiftMovesTheWindow : Prop :=
  (∀ (rl : Bit) (x : BitVec 2), decodeWord (0b000011#6 ++ rl ++ x) = .dispshift (if rl = 1 then .right else .left)) ∧
  (∀ s, ∃ t, exec (.dispshift .left) s = .next t ∧ t.scrollOffset.val = (s.scrollOffset.val + 1) % 40 ∧
    (∀ c, windowPosition t.scrollOffset c = windowPosition s.scrollOffset c - 1) ∧ sameExcept [.scroll] s t) ∧
  (∀ s, ∃ t, exec (.dispshift .right) s = .next t ∧ t.scrollOffset.val = (s.scrollOffset.val + 39) % 40 ∧
    (∀ c, windowPosition t.scrollOffset c = windowPosition s.scrollOffset c + 1) ∧ sameExcept [.scroll] s t) ∧
  (∀ d off, (displayShift d)^[40] off = off)

/-- FUNCSET (42_commands R117; polarities and bit places decision D10, log 14; ignored bits D17; `pending` D13, log 16). -/
def Obligations.FuncsetSetsWidthAndRecordedBits : Prop :=
  (∀ (dl n f : Bit) (x : BitVec 2), decodeWord (0b0001#4 ++ dl ++ n ++ f ++ x) = .funcset (if dl = 1 then .eight else .four) n f) ∧
  ∀ m n f s, ∃ t, exec (.funcset m n f) s = .next t ∧ t.busMode = m ∧ t.pending = none ∧ t.fsLines = n ∧ t.fsFont = f ∧
    sameExcept [.function, .pending] s t

/-- SETCG (42_commands R118): all 64 operands; the counter addresses the row; a data write from there goes to that row of CGRAM and leaves the offset alone;
only SETDD, CLEAR and HOME lead back to Display mode. -/
def Obligations.SetcgAddressesARow : Prop :=
  (∀ cell row : BitVec 3, decodeWord (0b001#3 ++ cell ++ row) = .setcg cell.toFin row.toFin) ∧
  ∀ cell row s, ∃ t, exec (.setcg cell row) s = .next t ∧ t.ac = .charGen cell row ∧ sameExcept [.ac] s t ∧
    (∀ v, ∃ u, exec (.write v) t = .next u ∧ u.scrollOffset = t.scrollOffset ∧ ∀ b, b ≠ .cg cell row → memRead b u = memRead b t) ∧
    (∀ i u, exec i t = .next u → isDisplay u.ac = true → i.mnemonic = .SETDD ∨ i.mnemonic = .CLEAR ∨ i.mnemonic = .HOME)

/-- SETDD to an address that names a cell (42_commands R119), for every state, so whatever `fs_lines` is: that the mapping does not depend on it is the spec's
decision D22 (DESIGN CHOICE, log 19). -/
def Obligations.SetddAddressesACell : Prop :=
  (∀ a : BitVec 7, decodeWord (0b01#2 ++ a) = .setdd a) ∧
  (∀ (a : BitVec 7) s, a.toNat ≤ 0x27 → ∃ t col, exec (.setdd a) s = .next t ∧ t.ac = .display 0 col ∧ col.val = a.toNat ∧ sameExcept [.ac] s t) ∧
  (∀ (a : BitVec 7) s, 0x40 ≤ a.toNat → a.toNat ≤ 0x67 →
    ∃ t col, exec (.setdd a) s = .next t ∧ t.ac = .display 1 col ∧ col.val = a.toNat - 0x40 ∧ sameExcept [.ac] s t)

/-- SETDD to an address that names no cell is refused, and to no other (42_commands R120; decision D15, log 9). -/
def Obligations.SetddHoleIsRefused : Prop :=
  ∀ (a : BitVec 7) s,
    exec (.setdd a) s = .refused .setDDOutOfRange ↔ (0x28 ≤ a.toNat ∧ a.toNat ≤ 0x3F) ∨ (0x68 ≤ a.toNat ∧ a.toNat ≤ 0x7F)

/-- The DD address map (20_memory R41): the ranges, the inverse map, and the source's example. -/
def Obligations.FlatAddressMap : Prop :=
  (∀ a : BitVec 7,
    (a.toNat ≤ 0x27 → ∃ col, ddCell a = some (0, col) ∧ col.val = a.toNat) ∧
    (0x28 ≤ a.toNat ∧ a.toNat ≤ 0x3F → ddCell a = none) ∧
    (0x40 ≤ a.toNat ∧ a.toNat ≤ 0x67 → ∃ col, ddCell a = some (1, col) ∧ col.val = a.toNat - 0x40) ∧
    (0x68 ≤ a.toNat → ddCell a = none)) ∧
  (∀ line col, ddKey line col = line.val * 0x40 + col.val ∧ ddCell (BitVec.ofNat 7 (ddKey line col)) = some (line, col)) ∧
  (∀ s, ∃ t, exec (decodeCommand 0b11000101#8) s = .next t ∧ t.ac = .display 1 5)

/-! ### The data write -/

/-- `MoveDir` (41_address_counter R101), and the source's example that fixes its first line. -/
def Obligations.TextDirectionIsAMoveDirection : Prop :=
  moveDir .leftToRight = .right ∧ moveDir .rightToLeft = .left ∧
  ∀ s b0 b1 b2, s.textDirection = .leftToRight → s.ac = .display 0 0 →
    ∃ t, execAll [.write b0, .write b1, .write b2] s = .next t ∧ t.ac = .display 0 3 ∧
      memRead (.dd 0 0) t = b0 ∧ memRead (.dd 0 1) t = b1 ∧ memRead (.dd 0 2) t = b2

/-- WRITE in Display mode (43_data_write R131; the direction of the auto-shift is decision D9, log 12): the whole byte at the old counter and no other byte
of memory, the counter one place on, the offset with it under `auto_shift`. -/
def Obligations.WriteInDisplayModeStoresAndMoves : Prop :=
  ∀ s v l c, s.ac = .display l c → ∃ t, exec (.write v) s = .next t ∧
    (∀ a, acAddr s.ac = a → memRead a t = v ∧ ∀ b, b ≠ a → memRead b t = memRead b s) ∧
    t.ac = shiftAC (moveDir s.textDirection) (.display l c) ∧
    (s.autoShift = false → t.scrollOffset = s.scrollOffset) ∧
    (s.autoShift = true → s.textDirection = .leftToRight → t.scrollOffset.val = (s.scrollOffset.val + 1) % 40) ∧
    (s.autoShift = true → s.textDirection = .rightToLeft → t.scrollOffset.val = (s.scrollOffset.val + 39) % 40) ∧
    sameExcept [.dd, .ac, .scroll] s t

/-- WRITE in CharGen mode (43_data_write R132; the mask is decision D16, log 17): the low five bits at the old counter and no other byte of memory, the
counter one place on, the offset unchanged whatever `auto_shift` is. -/
def Obligations.WriteInCharGenModeStoresFiveBitsAndMoves : Prop :=
  ∀ s v k r, s.ac = .charGen k r → ∃ t, exec (.write v) s = .next t ∧
    (∀ a, acAddr s.ac = a → memRead a t = v &&& 0x1F ∧ ∀ b, b ≠ a → memRead b t = memRead b s) ∧
    t.ac = shiftAC (moveDir s.textDirection) (.charGen k r) ∧ sameExcept [.cg, .ac] s t

/-- What WRITE never changes (43_data_write R134). -/
def Obligations.WriteLeavesControlFieldsAndOtherMemory : Prop :=
  (∀ s v t, exec (.write v) s = .next t →
    t.textDirection = s.textDirection ∧ t.autoShift = s.autoShift ∧ t.displayOn = s.displayOn ∧ t.cursorOn = s.cursorOn ∧
    t.blinkOn = s.blinkOn ∧ t.busMode = s.busMode ∧ t.fsLines = s.fsLines ∧ t.fsFont = s.fsFont ∧ isDisplay t.ac = isDisplay s.ac ∧
    (isDisplay s.ac = true → ∀ k r, memRead (.cg k r) t = memRead (.cg k r) s) ∧
    (isDisplay s.ac = false → ∀ l c, memRead (.dd l c) t = memRead (.dd l c) s)) ∧
  (∀ s db t, (s.busMode = .eight ∧ s.pending = none) ∨ (s.busMode = .four ∧ s.pending ≠ none) →
    strobe 1 db s = .next t → t.pending = none)

/-- Under `auto_shift` a write in Display mode keeps the cursor's window position, across a line flip too (43_data_write R131; decision D9, log 12). -/
def Obligations.AutoShiftKeepsTheCursorInPlace : Prop :=
  ∀ s v l c, s.ac = .display l c → s.autoShift = true →
    ∃ t l' c', exec (.write v) s = .next t ∧ t.ac = .display l' c' ∧
      windowPosition t.scrollOffset c' = windowPosition s.scrollOffset c

/-- Eighty writes in Display mode without auto-shift fill the whole of display memory and return the counter to its start (43_data_write R131, corner case (e)). -/
def Obligations.EightyWritesFillTheDisplay : Prop :=
  ∀ s l c (bs : List Byte), s.ac = .display l c → s.autoShift = false → bs.length = 80 →
    ∃ t, execAll (bs.map Instr.write) s = .next t ∧ sameExcept [.dd] s t ∧
      (∀ i b, bs[i]? = some b → memRead (acAddr ((shiftAC (moveDir s.textDirection))^[i] s.ac)) t = b) ∧
      (∀ l' c', ∃ i, i < 80 ∧ (shiftAC (moveDir s.textDirection))^[i] s.ac = .display l' c')

/-- The order of a write's effects is not observable, the store using the counter's value from before the move (43_data_write R133).
Each effect is a map of the CURRENT state, so that an effect that read what another writes would show in some order.
In Display mode the three effects (store, offset move, counter move) in every order, in CharGen mode the two (store, counter move) in either order, give
WRITE's state. -/
def Obligations.WriteEffectsCommute : Prop :=
  (∀ s v l c, s.ac = .display l c → ∀ effects : List (State → State),
    effects.Perm
      [fun u => memWriteDd l c v u,
       fun u => u.setScroll (autoShifted u),
       fun u => u.setAc (shiftAC (moveDir u.textDirection) u.ac)] →
    exec (.write v) s = .next (effects.foldl (fun u effect => effect u) s)) ∧
  (∀ s v k r, s.ac = .charGen k r → ∀ effects : List (State → State),
    effects.Perm
      [fun u => memWriteCg k r v u,
       fun u => u.setAc (shiftAC (moveDir u.textDirection) u.ac)] →
    exec (.write v) s = .next (effects.foldl (fun u effect => effect u) s))

/-! ### Rules over all instructions -/

/-- The frame rule (42_commands R122) over the write matrix of 10_state R24, for every instruction and every group of fields. -/
def Obligations.InstructionsWriteOnlyTheirState : Prop :=
  ∀ i s t g, exec i s = .next t → mayWrite g i.mnemonic = false → sameGroup g s t

/-- Which instructions are idempotent, and which are not (20_memory R51). -/
def Obligations.IdempotentInstructions : Prop :=
  (∀ i s t, idempotent i.mnemonic = true → exec i s = .next t → exec i t = .next t) ∧
  (∀ m, idempotent m = false → ∃ i s t, i.mnemonic = m ∧ exec i s = .next t ∧ exec i t ≠ .next t)

/-- The display flags and the recorded bits are read by nothing in the block: two states that differ in them alone step alike, to states that differ in them
alone (10_state R18, R21, 41_address_counter R106; decisions D22, D33, log 19). -/
def Obligations.DisplayFlagsAndRecordedBitsAreInert : Prop :=
  ∀ s t, agreeButInert s t →
    (∀ s', step s = .next s' → ∃ t', step t = .next t' ∧ agreeButInert s' t') ∧
    (∀ r, step s = .refused r → step t = .refused r)

/-! ### The snapshot port -/

/-- The snapshot (44_snapshot R140): every display cell, every glyph row, the ROM, the offset, the three flags; bits [7:5] of a CGRAM row are zero. -/
def Obligations.SnapshotShowsMemoryOffsetAndFlags : Prop :=
  ∀ s,
    (∀ (l : Fin 2) (c : Fin 40), ((snapshot s).lines[l.val])[c.val] = memRead (.dd l c) s) ∧
    (∀ k r : Fin 8, ((snapshot s).glyphMemory[k.val])[r.val] = memRead (.cg k r) s ∧ (((snapshot s).glyphMemory[k.val])[r.val]).toNat < 32) ∧
    (∀ (g : Fin 96) (r : Fin 8), ((snapshot s).glyphRom[g.val])[r.val] = Config.cgRom g r) ∧
    (snapshot s).scrollOffset = s.scrollOffset ∧ (snapshot s).displayOn = s.displayOn ∧ (snapshot s).cursorOn = s.cursorOn ∧
    (snapshot s).blinkOn = s.blinkOn

/-- The snapshot shows nothing else: states alike in what it lists have one snapshot, whatever the counter, the entry flags, the bus state and the recorded
bits are (44_snapshot R141, decision D25). -/
def Obligations.SnapshotHidesTheRest : Prop :=
  ∀ s t, sameGroup .dd s t → sameGroup .cg s t → sameGroup .scroll s t → sameGroup .display s t → snapshot t = snapshot s

/-- Glyph resolution (44_snapshot R142): codes 0..7, 8..31, 32..127; the space code is ROM glyph 0; no write runs it, every code is stored. -/
def Obligations.ResolveCodesBelow128 : Prop :=
  (∀ s code l c, s.ac = .display l c → ∃ t, exec (.write code) s = .next t ∧ memRead (.dd l c) t = code) ∧
  ∀ (snap : Snapshot) (code : Byte),
    (∀ h : code.toNat < 8, resolve snap code = .glyph snap.glyphMemory[code.toNat]) ∧
    (8 ≤ code.toNat → code.toNat ≤ 31 → resolve snap code = .resolutionError code) ∧
    (∀ g : Fin 96, code.toNat = g.val + 32 → resolve snap code = .glyph snap.glyphRom[g.val]) ∧
    resolve snap 0x20 = .glyph snap.glyphRom[0]

/-- Codes 128..255 have no glyph (44_snapshot R143; decision D24, log 10), and the block stores them like any other byte. -/
def Obligations.ResolveCodesFrom128HaveNoValue : Prop :=
  ∀ (code : Byte), 128 ≤ code.toNat →
    (∀ snap, resolve snap code = .noValue code) ∧
    (∀ s l c, s.ac = .display l c → ∃ t, exec (.write code) s = .next t ∧ memRead (.dd l c) t = code)

/-- `ResolutionError` (60_exceptions R152): exactly the codes 8..31, never at the write, and a predicate on the snapshot. -/
def Obligations.ResolutionErrorExactlyCodes8To31 : Prop :=
  (∀ (snap : Snapshot) (code : Byte), (∃ e, resolve snap code = .resolutionError e) ↔ 8 ≤ code.toNat ∧ code.toNat ≤ 31) ∧
  (∀ (snap : Snapshot) (code e : Byte), resolve snap code = .resolutionError e → e = code) ∧
  (∀ s v, ∃ t, exec (.write v) s = .next t) ∧
  (∀ snap : Snapshot, snap.hasInvalidCode ↔ ∃ (l : Fin 2) (c : Fin 40) (e : Byte), resolve snap ((snap.lines[l.val])[c.val]) = .resolutionError e)

/-- The visible window (44_snapshot R144): the cells from the offset on, around the line; a column is at its window position when that is visible. -/
def Obligations.WindowIsTheCellsFromTheOffset : Prop :=
  ∀ (width : Nat) (snap : Snapshot) (l : Fin 2), width ≤ 40 →
    (window width snap l).length = width ∧
    (∀ j, j < width → (window width snap l)[j]? = some ((snap.lines[l.val])[(snap.scrollOffset.val + j) % 40]'(Nat.mod_lt _ (by decide)))) ∧
    (∀ c : Fin 40, (windowPosition snap.scrollOffset c).val < width →
      (window width snap l)[(windowPosition snap.scrollOffset c).val]? = some ((snap.lines[l.val])[c.val]))

end
end

