-- ==== Sys2Proof/Laws/State.lean ====
section
/-! SUPPORT. One lemma per field per update of the state, true by rfl, so that no proof unfolds a record update. -/

namespace Sys2Proof.Machine.State

variable (s : State)

@[simp] theorem setDd_dd (m : Memory 8) : (s.setDd m).dd = m := rfl
@[simp] theorem setDd_cg (m : Memory 8) : (s.setDd m).cg = s.cg := rfl
@[simp] theorem setDd_ac (m : Memory 8) : (s.setDd m).ac = s.ac := rfl
@[simp] theorem setDd_textDirection (m : Memory 8) : (s.setDd m).textDirection = s.textDirection := rfl
@[simp] theorem setDd_autoShift (m : Memory 8) : (s.setDd m).autoShift = s.autoShift := rfl
@[simp] theorem setDd_displayOn (m : Memory 8) : (s.setDd m).displayOn = s.displayOn := rfl
@[simp] theorem setDd_cursorOn (m : Memory 8) : (s.setDd m).cursorOn = s.cursorOn := rfl
@[simp] theorem setDd_blinkOn (m : Memory 8) : (s.setDd m).blinkOn = s.blinkOn := rfl
@[simp] theorem setDd_scrollOffset (m : Memory 8) : (s.setDd m).scrollOffset = s.scrollOffset := rfl
@[simp] theorem setDd_busMode (m : Memory 8) : (s.setDd m).busMode = s.busMode := rfl
@[simp] theorem setDd_pending (m : Memory 8) : (s.setDd m).pending = s.pending := rfl
@[simp] theorem setDd_fsLines (m : Memory 8) : (s.setDd m).fsLines = s.fsLines := rfl
@[simp] theorem setDd_fsFont (m : Memory 8) : (s.setDd m).fsFont = s.fsFont := rfl
@[simp] theorem setDd_ePrev (m : Memory 8) : (s.setDd m).ePrev = s.ePrev := rfl
@[simp] theorem setDd_pins (m : Memory 8) : (s.setDd m).pins = s.pins := rfl

@[simp] theorem setCg_dd (m : Memory 5) : (s.setCg m).dd = s.dd := rfl
@[simp] theorem setCg_cg (m : Memory 5) : (s.setCg m).cg = m := rfl
@[simp] theorem setCg_ac (m : Memory 5) : (s.setCg m).ac = s.ac := rfl
@[simp] theorem setCg_textDirection (m : Memory 5) : (s.setCg m).textDirection = s.textDirection := rfl
@[simp] theorem setCg_autoShift (m : Memory 5) : (s.setCg m).autoShift = s.autoShift := rfl
@[simp] theorem setCg_displayOn (m : Memory 5) : (s.setCg m).displayOn = s.displayOn := rfl
@[simp] theorem setCg_cursorOn (m : Memory 5) : (s.setCg m).cursorOn = s.cursorOn := rfl
@[simp] theorem setCg_blinkOn (m : Memory 5) : (s.setCg m).blinkOn = s.blinkOn := rfl
@[simp] theorem setCg_scrollOffset (m : Memory 5) : (s.setCg m).scrollOffset = s.scrollOffset := rfl
@[simp] theorem setCg_busMode (m : Memory 5) : (s.setCg m).busMode = s.busMode := rfl
@[simp] theorem setCg_pending (m : Memory 5) : (s.setCg m).pending = s.pending := rfl
@[simp] theorem setCg_fsLines (m : Memory 5) : (s.setCg m).fsLines = s.fsLines := rfl
@[simp] theorem setCg_fsFont (m : Memory 5) : (s.setCg m).fsFont = s.fsFont := rfl
@[simp] theorem setCg_ePrev (m : Memory 5) : (s.setCg m).ePrev = s.ePrev := rfl
@[simp] theorem setCg_pins (m : Memory 5) : (s.setCg m).pins = s.pins := rfl

@[simp] theorem setAc_dd (a : AC) : (s.setAc a).dd = s.dd := rfl
@[simp] theorem setAc_cg (a : AC) : (s.setAc a).cg = s.cg := rfl
@[simp] theorem setAc_ac (a : AC) : (s.setAc a).ac = a := rfl
@[simp] theorem setAc_textDirection (a : AC) : (s.setAc a).textDirection = s.textDirection := rfl
@[simp] theorem setAc_autoShift (a : AC) : (s.setAc a).autoShift = s.autoShift := rfl
@[simp] theorem setAc_displayOn (a : AC) : (s.setAc a).displayOn = s.displayOn := rfl
@[simp] theorem setAc_cursorOn (a : AC) : (s.setAc a).cursorOn = s.cursorOn := rfl
@[simp] theorem setAc_blinkOn (a : AC) : (s.setAc a).blinkOn = s.blinkOn := rfl
@[simp] theorem setAc_scrollOffset (a : AC) : (s.setAc a).scrollOffset = s.scrollOffset := rfl
@[simp] theorem setAc_busMode (a : AC) : (s.setAc a).busMode = s.busMode := rfl
@[simp] theorem setAc_pending (a : AC) : (s.setAc a).pending = s.pending := rfl
@[simp] theorem setAc_fsLines (a : AC) : (s.setAc a).fsLines = s.fsLines := rfl
@[simp] theorem setAc_fsFont (a : AC) : (s.setAc a).fsFont = s.fsFont := rfl
@[simp] theorem setAc_ePrev (a : AC) : (s.setAc a).ePrev = s.ePrev := rfl
@[simp] theorem setAc_pins (a : AC) : (s.setAc a).pins = s.pins := rfl

@[simp] theorem setScroll_dd (off : Fin 40) : (s.setScroll off).dd = s.dd := rfl
@[simp] theorem setScroll_cg (off : Fin 40) : (s.setScroll off).cg = s.cg := rfl
@[simp] theorem setScroll_ac (off : Fin 40) : (s.setScroll off).ac = s.ac := rfl
@[simp] theorem setScroll_textDirection (off : Fin 40) : (s.setScroll off).textDirection = s.textDirection := rfl
@[simp] theorem setScroll_autoShift (off : Fin 40) : (s.setScroll off).autoShift = s.autoShift := rfl
@[simp] theorem setScroll_displayOn (off : Fin 40) : (s.setScroll off).displayOn = s.displayOn := rfl
@[simp] theorem setScroll_cursorOn (off : Fin 40) : (s.setScroll off).cursorOn = s.cursorOn := rfl
@[simp] theorem setScroll_blinkOn (off : Fin 40) : (s.setScroll off).blinkOn = s.blinkOn := rfl
@[simp] theorem setScroll_scrollOffset (off : Fin 40) : (s.setScroll off).scrollOffset = off := rfl
@[simp] theorem setScroll_busMode (off : Fin 40) : (s.setScroll off).busMode = s.busMode := rfl
@[simp] theorem setScroll_pending (off : Fin 40) : (s.setScroll off).pending = s.pending := rfl
@[simp] theorem setScroll_fsLines (off : Fin 40) : (s.setScroll off).fsLines = s.fsLines := rfl
@[simp] theorem setScroll_fsFont (off : Fin 40) : (s.setScroll off).fsFont = s.fsFont := rfl
@[simp] theorem setScroll_ePrev (off : Fin 40) : (s.setScroll off).ePrev = s.ePrev := rfl
@[simp] theorem setScroll_pins (off : Fin 40) : (s.setScroll off).pins = s.pins := rfl

@[simp] theorem setPending_dd (p : Option Byte) : (s.setPending p).dd = s.dd := rfl
@[simp] theorem setPending_cg (p : Option Byte) : (s.setPending p).cg = s.cg := rfl
@[simp] theorem setPending_ac (p : Option Byte) : (s.setPending p).ac = s.ac := rfl
@[simp] theorem setPending_textDirection (p : Option Byte) : (s.setPending p).textDirection = s.textDirection := rfl
@[simp] theorem setPending_autoShift (p : Option Byte) : (s.setPending p).autoShift = s.autoShift := rfl
@[simp] theorem setPending_displayOn (p : Option Byte) : (s.setPending p).displayOn = s.displayOn := rfl
@[simp] theorem setPending_cursorOn (p : Option Byte) : (s.setPending p).cursorOn = s.cursorOn := rfl
@[simp] theorem setPending_blinkOn (p : Option Byte) : (s.setPending p).blinkOn = s.blinkOn := rfl
@[simp] theorem setPending_scrollOffset (p : Option Byte) : (s.setPending p).scrollOffset = s.scrollOffset := rfl
@[simp] theorem setPending_busMode (p : Option Byte) : (s.setPending p).busMode = s.busMode := rfl
@[simp] theorem setPending_pending (p : Option Byte) : (s.setPending p).pending = p := rfl
@[simp] theorem setPending_fsLines (p : Option Byte) : (s.setPending p).fsLines = s.fsLines := rfl
@[simp] theorem setPending_fsFont (p : Option Byte) : (s.setPending p).fsFont = s.fsFont := rfl
@[simp] theorem setPending_ePrev (p : Option Byte) : (s.setPending p).ePrev = s.ePrev := rfl
@[simp] theorem setPending_pins (p : Option Byte) : (s.setPending p).pins = s.pins := rfl

@[simp] theorem setEPrev_dd (e : Bit) : (s.setEPrev e).dd = s.dd := rfl
@[simp] theorem setEPrev_cg (e : Bit) : (s.setEPrev e).cg = s.cg := rfl
@[simp] theorem setEPrev_ac (e : Bit) : (s.setEPrev e).ac = s.ac := rfl
@[simp] theorem setEPrev_textDirection (e : Bit) : (s.setEPrev e).textDirection = s.textDirection := rfl
@[simp] theorem setEPrev_autoShift (e : Bit) : (s.setEPrev e).autoShift = s.autoShift := rfl
@[simp] theorem setEPrev_displayOn (e : Bit) : (s.setEPrev e).displayOn = s.displayOn := rfl
@[simp] theorem setEPrev_cursorOn (e : Bit) : (s.setEPrev e).cursorOn = s.cursorOn := rfl
@[simp] theorem setEPrev_blinkOn (e : Bit) : (s.setEPrev e).blinkOn = s.blinkOn := rfl
@[simp] theorem setEPrev_scrollOffset (e : Bit) : (s.setEPrev e).scrollOffset = s.scrollOffset := rfl
@[simp] theorem setEPrev_busMode (e : Bit) : (s.setEPrev e).busMode = s.busMode := rfl
@[simp] theorem setEPrev_pending (e : Bit) : (s.setEPrev e).pending = s.pending := rfl
@[simp] theorem setEPrev_fsLines (e : Bit) : (s.setEPrev e).fsLines = s.fsLines := rfl
@[simp] theorem setEPrev_fsFont (e : Bit) : (s.setEPrev e).fsFont = s.fsFont := rfl
@[simp] theorem setEPrev_ePrev (e : Bit) : (s.setEPrev e).ePrev = e := rfl
@[simp] theorem setEPrev_pins (e : Bit) : (s.setEPrev e).pins = s.pins := rfl

@[simp] theorem setPins_dd (evs : List PinEvent) : (s.setPins evs).dd = s.dd := rfl
@[simp] theorem setPins_cg (evs : List PinEvent) : (s.setPins evs).cg = s.cg := rfl
@[simp] theorem setPins_ac (evs : List PinEvent) : (s.setPins evs).ac = s.ac := rfl
@[simp] theorem setPins_textDirection (evs : List PinEvent) : (s.setPins evs).textDirection = s.textDirection := rfl
@[simp] theorem setPins_autoShift (evs : List PinEvent) : (s.setPins evs).autoShift = s.autoShift := rfl
@[simp] theorem setPins_displayOn (evs : List PinEvent) : (s.setPins evs).displayOn = s.displayOn := rfl
@[simp] theorem setPins_cursorOn (evs : List PinEvent) : (s.setPins evs).cursorOn = s.cursorOn := rfl
@[simp] theorem setPins_blinkOn (evs : List PinEvent) : (s.setPins evs).blinkOn = s.blinkOn := rfl
@[simp] theorem setPins_scrollOffset (evs : List PinEvent) : (s.setPins evs).scrollOffset = s.scrollOffset := rfl
@[simp] theorem setPins_busMode (evs : List PinEvent) : (s.setPins evs).busMode = s.busMode := rfl
@[simp] theorem setPins_pending (evs : List PinEvent) : (s.setPins evs).pending = s.pending := rfl
@[simp] theorem setPins_fsLines (evs : List PinEvent) : (s.setPins evs).fsLines = s.fsLines := rfl
@[simp] theorem setPins_fsFont (evs : List PinEvent) : (s.setPins evs).fsFont = s.fsFont := rfl
@[simp] theorem setPins_ePrev (evs : List PinEvent) : (s.setPins evs).ePrev = s.ePrev := rfl
@[simp] theorem setPins_pins (evs : List PinEvent) : (s.setPins evs).pins = evs := rfl

@[simp] theorem setEntry_dd (d : TextDirection) (sh : Bool) : (s.setEntry d sh).dd = s.dd := rfl
@[simp] theorem setEntry_cg (d : TextDirection) (sh : Bool) : (s.setEntry d sh).cg = s.cg := rfl
@[simp] theorem setEntry_ac (d : TextDirection) (sh : Bool) : (s.setEntry d sh).ac = s.ac := rfl
@[simp] theorem setEntry_textDirection (d : TextDirection) (sh : Bool) : (s.setEntry d sh).textDirection = d := rfl
@[simp] theorem setEntry_autoShift (d : TextDirection) (sh : Bool) : (s.setEntry d sh).autoShift = sh := rfl
@[simp] theorem setEntry_displayOn (d : TextDirection) (sh : Bool) : (s.setEntry d sh).displayOn = s.displayOn := rfl
@[simp] theorem setEntry_cursorOn (d : TextDirection) (sh : Bool) : (s.setEntry d sh).cursorOn = s.cursorOn := rfl
@[simp] theorem setEntry_blinkOn (d : TextDirection) (sh : Bool) : (s.setEntry d sh).blinkOn = s.blinkOn := rfl
@[simp] theorem setEntry_scrollOffset (d : TextDirection) (sh : Bool) : (s.setEntry d sh).scrollOffset = s.scrollOffset := rfl
@[simp] theorem setEntry_busMode (d : TextDirection) (sh : Bool) : (s.setEntry d sh).busMode = s.busMode := rfl
@[simp] theorem setEntry_pending (d : TextDirection) (sh : Bool) : (s.setEntry d sh).pending = s.pending := rfl
@[simp] theorem setEntry_fsLines (d : TextDirection) (sh : Bool) : (s.setEntry d sh).fsLines = s.fsLines := rfl
@[simp] theorem setEntry_fsFont (d : TextDirection) (sh : Bool) : (s.setEntry d sh).fsFont = s.fsFont := rfl
@[simp] theorem setEntry_ePrev (d : TextDirection) (sh : Bool) : (s.setEntry d sh).ePrev = s.ePrev := rfl
@[simp] theorem setEntry_pins (d : TextDirection) (sh : Bool) : (s.setEntry d sh).pins = s.pins := rfl

@[simp] theorem setDisplay_dd (d c b : Bool) : (s.setDisplay d c b).dd = s.dd := rfl
@[simp] theorem setDisplay_cg (d c b : Bool) : (s.setDisplay d c b).cg = s.cg := rfl
@[simp] theorem setDisplay_ac (d c b : Bool) : (s.setDisplay d c b).ac = s.ac := rfl
@[simp] theorem setDisplay_textDirection (d c b : Bool) : (s.setDisplay d c b).textDirection = s.textDirection := rfl
@[simp] theorem setDisplay_autoShift (d c b : Bool) : (s.setDisplay d c b).autoShift = s.autoShift := rfl
@[simp] theorem setDisplay_displayOn (d c b : Bool) : (s.setDisplay d c b).displayOn = d := rfl
@[simp] theorem setDisplay_cursorOn (d c b : Bool) : (s.setDisplay d c b).cursorOn = c := rfl
@[simp] theorem setDisplay_blinkOn (d c b : Bool) : (s.setDisplay d c b).blinkOn = b := rfl
@[simp] theorem setDisplay_scrollOffset (d c b : Bool) : (s.setDisplay d c b).scrollOffset = s.scrollOffset := rfl
@[simp] theorem setDisplay_busMode (d c b : Bool) : (s.setDisplay d c b).busMode = s.busMode := rfl
@[simp] theorem setDisplay_pending (d c b : Bool) : (s.setDisplay d c b).pending = s.pending := rfl
@[simp] theorem setDisplay_fsLines (d c b : Bool) : (s.setDisplay d c b).fsLines = s.fsLines := rfl
@[simp] theorem setDisplay_fsFont (d c b : Bool) : (s.setDisplay d c b).fsFont = s.fsFont := rfl
@[simp] theorem setDisplay_ePrev (d c b : Bool) : (s.setDisplay d c b).ePrev = s.ePrev := rfl
@[simp] theorem setDisplay_pins (d c b : Bool) : (s.setDisplay d c b).pins = s.pins := rfl

@[simp] theorem setFunction_dd (mo : BusMode) (n f : Bit) : (s.setFunction mo n f).dd = s.dd := rfl
@[simp] theorem setFunction_cg (mo : BusMode) (n f : Bit) : (s.setFunction mo n f).cg = s.cg := rfl
@[simp] theorem setFunction_ac (mo : BusMode) (n f : Bit) : (s.setFunction mo n f).ac = s.ac := rfl
@[simp] theorem setFunction_textDirection (mo : BusMode) (n f : Bit) : (s.setFunction mo n f).textDirection = s.textDirection := rfl
@[simp] theorem setFunction_autoShift (mo : BusMode) (n f : Bit) : (s.setFunction mo n f).autoShift = s.autoShift := rfl
@[simp] theorem setFunction_displayOn (mo : BusMode) (n f : Bit) : (s.setFunction mo n f).displayOn = s.displayOn := rfl
@[simp] theorem setFunction_cursorOn (mo : BusMode) (n f : Bit) : (s.setFunction mo n f).cursorOn = s.cursorOn := rfl
@[simp] theorem setFunction_blinkOn (mo : BusMode) (n f : Bit) : (s.setFunction mo n f).blinkOn = s.blinkOn := rfl
@[simp] theorem setFunction_scrollOffset (mo : BusMode) (n f : Bit) : (s.setFunction mo n f).scrollOffset = s.scrollOffset := rfl
@[simp] theorem setFunction_busMode (mo : BusMode) (n f : Bit) : (s.setFunction mo n f).busMode = mo := rfl
@[simp] theorem setFunction_pending (mo : BusMode) (n f : Bit) : (s.setFunction mo n f).pending = s.pending := rfl
@[simp] theorem setFunction_fsLines (mo : BusMode) (n f : Bit) : (s.setFunction mo n f).fsLines = n := rfl
@[simp] theorem setFunction_fsFont (mo : BusMode) (n f : Bit) : (s.setFunction mo n f).fsFont = f := rfl
@[simp] theorem setFunction_ePrev (mo : BusMode) (n f : Bit) : (s.setFunction mo n f).ePrev = s.ePrev := rfl
@[simp] theorem setFunction_pins (mo : BusMode) (n f : Bit) : (s.setFunction mo n f).pins = s.pins := rfl

/-- Two states with the same fields are equal. -/
theorem ext_fields {s t : State} (h1 : s.dd = t.dd) (h2 : s.cg = t.cg) (h3 : s.ac = t.ac) (h4 : s.textDirection = t.textDirection)
    (h5 : s.autoShift = t.autoShift) (h6 : s.displayOn = t.displayOn) (h7 : s.cursorOn = t.cursorOn) (h8 : s.blinkOn = t.blinkOn)
    (h9 : s.scrollOffset = t.scrollOffset) (h10 : s.busMode = t.busMode) (h11 : s.pending = t.pending) (h12 : s.fsLines = t.fsLines)
    (h13 : s.fsFont = t.fsFont) (h14 : s.ePrev = t.ePrev) (h15 : s.pins = t.pins) : s = t := by
  cases s; cases t; simp_all

end Sys2Proof.Machine.State
end

