-- ==== Sys2Proof/Laws/Memory.lean ====
section
/-! SUPPORT. The laws of the memory operations: read after write, and that every operation keeps the canonical form. -/

namespace Sys2Proof.Machine

/-! ### Lists of cells -/

section Cells

variable {w : Nat}

@[simp] theorem memLookup_nil (a : Nat) : memLookup ([] : Memory w) a = none := rfl

theorem memLookup_memInsert (m : Memory w) (a b : Nat) (v : BitVec w) :
    memLookup (memInsert m a v) b = if b = a then some v else memLookup m b := by
  induction m with
  | nil => simp [memInsert, memLookup]
  | cons c rest ih =>
    obtain ⟨k, u⟩ := c
    simp only [memInsert]
    split
    · simp [memLookup]
    · split
      · subst_vars; by_cases h : b = k <;> simp [memLookup, h]
      · by_cases h : b = k
        · subst h; simp [memLookup]; omega
        · simp [memLookup, h, ih]

theorem memLookup_memErase (m : Memory w) (a b : Nat) :
    memLookup (memErase m a) b = if b = a then none else memLookup m b := by
  induction m with
  | nil => simp [memErase]
  | cons c rest ih =>
    obtain ⟨k, u⟩ := c
    by_cases ha : a = k
    · subst ha
      by_cases hb : b = a
      · simpa [memErase, hb] using ih
      · simp [memErase, memLookup, ih, hb]
    · by_cases hb : b = k
      · subst hb; simp [memErase, memLookup, ha, Ne.symm ha]
      · simp [memErase, memLookup, ha, hb, ih]

/-- Everything a store does to what an address holds. -/
theorem memLookup_memStore (unlisted : Option (BitVec w)) (m : Memory w) (a b : Nat) (v : BitVec w) :
    memLookup (memStore unlisted m a v) b =
      if b = a then (if some v = unlisted then none else some v) else memLookup m b := by
  unfold memStore
  by_cases h : some v = unlisted <;> simp [h, memLookup_memInsert, memLookup_memErase]

theorem memInsert_all (p : Nat × BitVec w → Bool) (m : Memory w) (a : Nat) (v : BitVec w)
    (hm : m.all p = true) (ha : p (a, v) = true) : (memInsert m a v).all p = true := by
  induction m with
  | nil => simp [memInsert, ha]
  | cons c rest ih =>
    simp only [List.all_cons, Bool.and_eq_true] at hm
    simp only [memInsert]
    split
    · simp [ha, hm.1, hm.2]
    · split <;> simp [ha, hm.1, hm.2, ih hm.2]

theorem memErase_all (p : Nat × BitVec w → Bool) (m : Memory w) (a : Nat)
    (hm : m.all p = true) : (memErase m a).all p = true := by
  induction m with
  | nil => simp [memErase]
  | cons c rest ih =>
    simp only [List.all_cons, Bool.and_eq_true] at hm
    simp only [memErase]
    split <;> simp [hm.1, ih hm.2]

theorem all_lt_of_lt {m : Memory w} {a b : Nat} (h : a < b)
    (hm : m.all (fun c => decide (b < c.1)) = true) : m.all (fun c => decide (a < c.1)) = true := by
  simp only [List.all_eq_true, decide_eq_true_eq] at hm ⊢
  exact fun c hc => Nat.lt_trans h (hm c hc)

theorem memInsert_rising (m : Memory w) (a : Nat) (v : BitVec w)
    (hm : memRising m = true) : memRising (memInsert m a v) = true := by
  induction m with
  | nil => simp [memInsert, memRising]
  | cons c rest ih =>
    obtain ⟨k, u⟩ := c
    simp only [memRising, Bool.and_eq_true] at hm
    obtain ⟨hk, hr⟩ := hm
    simp only [memInsert]
    split
    · rename_i hlt
      simp only [memRising, List.all_cons, Bool.and_eq_true, decide_eq_true_eq]
      exact ⟨⟨hlt, all_lt_of_lt hlt hk⟩, hk, hr⟩
    · split
      · subst_vars; simp only [memRising, Bool.and_eq_true]; exact ⟨hk, hr⟩
      · simp only [memRising, Bool.and_eq_true]
        exact ⟨memInsert_all _ _ _ _ hk (by simp; omega), ih hr⟩

theorem memErase_rising (m : Memory w) (a : Nat)
    (hm : memRising m = true) : memRising (memErase m a) = true := by
  induction m with
  | nil => simp [memErase, memRising]
  | cons c rest ih =>
    obtain ⟨k, u⟩ := c
    simp only [memRising, Bool.and_eq_true] at hm
    simp only [memErase]
    split
    · exact ih hm.2
    · simp only [memRising, Bool.and_eq_true]
      exact ⟨memErase_all _ _ _ hm.1, ih hm.2⟩

/-- A store at an address of the map keeps the canonical form. -/
theorem memStore_wf {unlisted : Option (BitVec w)} {mapped : Nat → Bool} {m : Memory w} {a : Nat} (v : BitVec w)
    (hm : Memory.wf unlisted mapped m = true) (ha : mapped a = true) :
    Memory.wf unlisted mapped (memStore unlisted m a v) = true := by
  simp only [Memory.wf, Bool.and_eq_true] at hm ⊢
  unfold memStore
  split
  · exact ⟨memErase_rising _ _ hm.1, memErase_all _ _ _ hm.2⟩
  · rename_i hv
    exact ⟨memInsert_rising _ _ _ hm.1, memInsert_all _ _ _ _ hm.2 (by simp [ha, hv])⟩

@[simp] theorem nil_wf (unlisted : Option (BitVec w)) (mapped : Nat → Bool) :
    Memory.wf unlisted mapped ([] : Memory w) = true := rfl

end Cells

/-! ### Addresses -/

theorem ddKey_inj {l l' : Fin 2} {c c' : Fin 40} : ddKey l c = ddKey l' c' ↔ l = l' ∧ c = c' := by
  unfold ddKey; constructor
  · intro h; constructor <;> apply Fin.ext <;> omega
  · rintro ⟨rfl, rfl⟩; rfl

theorem cgKey_inj {k k' r r' : Fin 8} : cgKey k r = cgKey k' r' ↔ k = k' ∧ r = r' := by
  unfold cgKey; constructor
  · intro h; constructor <;> apply Fin.ext <;> omega
  · rintro ⟨rfl, rfl⟩; rfl

theorem ddKey_mapped (l : Fin 2) (c : Fin 40) : ddMapped (ddKey l c) = true := by
  revert l c; decide

theorem cgKey_mapped (k r : Fin 8) : cgMapped (cgKey k r) = true := by
  revert k r; decide

/-! ### The access primitives -/

/-- Everything a display store does to what an address reads as. -/
theorem memRead_memWriteDd (l : Fin 2) (c : Fin 40) (v : Byte) (s : State) (a : Addr) :
    memRead a (memWriteDd l c v s) = if a = .dd l c then v else memRead a s := by
  cases a with
  | dd l' c' =>
    simp only [memRead, memWriteDd, State.setDd_dd, memLookup_memStore, ddKey_inj, Addr.dd.injEq]
    split
    · unfold ddUnlisted; split
      · simp_all
      · rfl
    · rfl
  | cg k r => simp [memRead, memWriteDd, cgRow]
  | rom g r => simp [memRead]

/-- Everything a CGRAM store does to what an address reads as. -/
theorem memRead_memWriteCg (k r : Fin 8) (v : Byte) (s : State) (a : Addr) :
    memRead a (memWriteCg k r v s) = if a = .cg k r then (v.extractLsb' 0 5).setWidth 8 else memRead a s := by
  cases a with
  | dd l c => simp [memRead, memWriteCg]
  | cg k' r' =>
    simp only [memRead, cgRow, memWriteCg, State.setCg_cg, memLookup_memStore, cgKey_inj, Addr.cg.injEq, cgUnlisted]
    split <;> simp
  | rom g r' => simp [memRead]

theorem memWriteDd_ddWf (l : Fin 2) (c : Fin 40) (v : Byte) {s : State} (h : ddWf s = true) :
    ddWf (memWriteDd l c v s) = true := memStore_wf v h (ddKey_mapped l c)

theorem memWriteCg_cgWf (k r : Fin 8) (v : Byte) {s : State} (h : cgWf s = true) :
    cgWf (memWriteCg k r v s) = true := memStore_wf _ h (cgKey_mapped k r)

@[simp] theorem memWriteDd_cgWf (l : Fin 2) (c : Fin 40) (v : Byte) (s : State) :
    cgWf (memWriteDd l c v s) = cgWf s := rfl

@[simp] theorem memWriteCg_ddWf (k r : Fin 8) (v : Byte) (s : State) :
    ddWf (memWriteCg k r v s) = ddWf s := rfl

@[simp] theorem clearDd_ddWf (s : State) : ddWf (clearDd s) = true := rfl

@[simp] theorem memRead_clearDd_dd (l : Fin 2) (c : Fin 40) (s : State) :
    memRead (.dd l c) (clearDd s) = Config.space := rfl

/-- Reset memory is in canonical form, for every choice of the construction options. -/
theorem resetWith_memory_wf (p : Config.Params) :
    ddWf (State.resetWith p) = true ∧ cgWf (State.resetWith p) = true := ⟨rfl, rfl⟩

/-- What an address reads as depends on the two memories alone. -/
theorem memRead_congr {s t : State} (hd : t.dd = s.dd) (hc : t.cg = s.cg) (a : Addr) : memRead a t = memRead a s := by
  cases a <;> simp [memRead, cgRow, hd, hc]

/-! ### A store writes only its own memory -/

@[simp] theorem memWriteDd_ac (l : Fin 2) (c : Fin 40) (v : Byte) (s : State) : (memWriteDd l c v s).ac = s.ac := rfl
@[simp] theorem memWriteCg_ac (k r : Fin 8) (v : Byte) (s : State) : (memWriteCg k r v s).ac = s.ac := rfl
@[simp] theorem memWriteDd_cg (l : Fin 2) (c : Fin 40) (v : Byte) (s : State) : (memWriteDd l c v s).cg = s.cg := rfl
@[simp] theorem memWriteCg_dd (k r : Fin 8) (v : Byte) (s : State) : (memWriteCg k r v s).dd = s.dd := rfl

end Sys2Proof.Machine
end

