-- ==== Sys2Proof/Laws/Exec.lean ====
section
/-! SUPPORT. What one instruction, one strobe and one step can do, said once: claims cite these and do not unfold `exec` or `step`. -/

namespace Sys2Proof.Machine

/-! ### One lemma per instruction -/

@[simp] theorem exec_nop (s : State) : exec .nop s = .next s := rfl

@[simp] theorem exec_clear (s : State) : exec .clear s = .next (((clearDd s).setAc (.display 0 0)).setScroll 0) := rfl

@[simp] theorem exec_home (s : State) : exec .home s = .next ((s.setAc (.display 0 0)).setScroll 0) := rfl

@[simp] theorem exec_entry (d : TextDirection) (sh : Bool) (s : State) : exec (.entry d sh) s = .next (s.setEntry d sh) := rfl

@[simp] theorem exec_dispctl (d c b : Bool) (s : State) : exec (.dispctl d c b) s = .next (s.setDisplay d c b) := rfl

@[simp] theorem exec_curshift (d : Direction) (s : State) : exec (.curshift d) s = .next (s.setAc (shiftAC d s.ac)) := rfl

@[simp] theorem exec_dispshift (d : Direction) (s : State) :
    exec (.dispshift d) s = .next (s.setScroll (displayShift d s.scrollOffset)) := rfl

@[simp] theorem exec_funcset (m : BusMode) (n f : Bit) (s : State) :
    exec (.funcset m n f) s = .next ((s.setFunction m n f).setPending none) := rfl

@[simp] theorem exec_setcg (k r : Fin 8) (s : State) : exec (.setcg k r) s = .next (s.setAc (.charGen k r)) := rfl

theorem exec_setdd_cell {a : BitVec 7} {l : Fin 2} {c : Fin 40} (h : ddCell a = some (l, c)) (s : State) :
    exec (.setdd a) s = .next (s.setAc (.display l c)) := by
  simp [exec, execSetdd, h]

theorem exec_setdd_hole {a : BitVec 7} (h : ddCell a = none) (s : State) :
    exec (.setdd a) s = .refused .setDDOutOfRange := by
  simp [exec, execSetdd, h]

theorem exec_write_display {s : State} {l : Fin 2} {c : Fin 40} (h : s.ac = .display l c) (v : Byte) :
    exec (.write v) s = .next (writeDisplay v l c s) := by
  simp [exec, execWrite, h]

theorem exec_write_charGen {s : State} {k r : Fin 8} (h : s.ac = .charGen k r) (v : Byte) :
    exec (.write v) s = .next (writeCharGen v k r s) := by
  simp [exec, execWrite, h]

/-! ### Everything an instruction can do when it answers a next state -/

theorem exec_next_cases {i : Instr} {s t : State} (h : exec i s = .next t) :
    (i = .nop ∧ t = s) ∨
    (i = .clear ∧ t = ((clearDd s).setAc (.display 0 0)).setScroll 0) ∨
    (i = .home ∧ t = (s.setAc (.display 0 0)).setScroll 0) ∨
    (∃ d sh, i = .entry d sh ∧ t = s.setEntry d sh) ∨
    (∃ d c b, i = .dispctl d c b ∧ t = s.setDisplay d c b) ∨
    (∃ d, i = .curshift d ∧ t = s.setAc (shiftAC d s.ac)) ∨
    (∃ d, i = .dispshift d ∧ t = s.setScroll (displayShift d s.scrollOffset)) ∨
    (∃ m n f, i = .funcset m n f ∧ t = (s.setFunction m n f).setPending none) ∨
    (∃ k r, i = .setcg k r ∧ t = s.setAc (.charGen k r)) ∨
    (∃ a l c, i = .setdd a ∧ ddCell a = some (l, c) ∧ t = s.setAc (.display l c)) ∨
    (∃ v l c, i = .write v ∧ s.ac = .display l c ∧ t = writeDisplay v l c s) ∨
    (∃ v k r, i = .write v ∧ s.ac = .charGen k r ∧ t = writeCharGen v k r s) := by
  cases i with
  | nop => cases h; exact .inl ⟨rfl, rfl⟩
  | clear => cases h; exact .inr (.inl ⟨rfl, rfl⟩)
  | home => cases h; exact .inr (.inr (.inl ⟨rfl, rfl⟩))
  | entry _ _ => cases h; exact .inr (.inr (.inr (.inl ⟨_, _, rfl, rfl⟩)))
  | dispctl _ _ _ => cases h; exact .inr (.inr (.inr (.inr (.inl ⟨_, _, _, rfl, rfl⟩))))
  | curshift _ => cases h; exact .inr (.inr (.inr (.inr (.inr (.inl ⟨_, rfl, rfl⟩)))))
  | dispshift _ => cases h; exact .inr (.inr (.inr (.inr (.inr (.inr (.inl ⟨_, rfl, rfl⟩))))))
  | funcset _ _ _ => cases h; exact .inr (.inr (.inr (.inr (.inr (.inr (.inr (.inl ⟨_, _, _, rfl, rfl⟩)))))))
  | setcg _ _ => cases h; exact .inr (.inr (.inr (.inr (.inr (.inr (.inr (.inr (.inl ⟨_, _, rfl, rfl⟩))))))))
  | setdd a =>
    cases hc : ddCell a with
    | none => rw [exec_setdd_hole hc] at h; cases h
    | some lc =>
      rw [exec_setdd_cell hc] at h; cases h
      exact .inr (.inr (.inr (.inr (.inr (.inr (.inr (.inr (.inr (.inl ⟨_, _, _, rfl, hc, rfl⟩)))))))))
  | write v =>
    cases hac : s.ac with
    | display l c =>
      rw [exec_write_display hac] at h; cases h
      exact .inr (.inr (.inr (.inr (.inr (.inr (.inr (.inr (.inr (.inr (.inl ⟨_, _, _, rfl, rfl, rfl⟩))))))))))
    | charGen k r =>
      rw [exec_write_charGen hac] at h; cases h
      exact .inr (.inr (.inr (.inr (.inr (.inr (.inr (.inr (.inr (.inr (.inr (⟨_, _, _, rfl, rfl, rfl⟩)))))))))))

/-- An instruction never faults: the type of faults is empty. -/
theorem exec_ne_fault (i : Instr) (s : State) (f : Fault) : exec i s ≠ .fault f := nomatch f

/-- The one way an instruction does not answer a next state. -/
theorem exec_refused {i : Instr} {s : State} {r : Refusal} (h : exec i s = .refused r) :
    ∃ a, i = .setdd a ∧ ddCell a = none ∧ r = .setDDOutOfRange := by
  cases i with
  | setdd a =>
    cases hc : ddCell a with
    | none => rw [exec_setdd_hole hc] at h; cases h; exact ⟨a, rfl, hc, rfl⟩
    | some lc => obtain ⟨l, c⟩ := lc; rw [exec_setdd_cell hc] at h; cases h
  | write v =>
    cases hac : s.ac with
    | display l c => rw [exec_write_display hac] at h; cases h
    | charGen k r => rw [exec_write_charGen hac] at h; cases h
  | _ => cases h

/-! ### What a write leaves -/

/-- A field neither memory, counter nor offset is the same after a data write. -/
theorem writeDisplay_eq (v : Byte) (l : Fin 2) (c : Fin 40) (s : State) :
    writeDisplay v l c s = { memWriteDd l c v s with scrollOffset := autoShifted s, ac := shiftAC (moveDir s.textDirection) s.ac } := rfl

theorem writeCharGen_eq (v : Byte) (k r : Fin 8) (s : State) :
    writeCharGen v k r s = { memWriteCg k r v s with ac := shiftAC (moveDir s.textDirection) s.ac } := rfl

theorem memRead_writeDisplay (v : Byte) (l : Fin 2) (c : Fin 40) (s : State) (a : Addr) :
    memRead a (writeDisplay v l c s) = if a = .dd l c then v else memRead a s := by
  rw [← memRead_memWriteDd]; exact memRead_congr (s := memWriteDd l c v s) (t := writeDisplay v l c s) rfl rfl a

theorem memRead_writeCharGen (v : Byte) (k r : Fin 8) (s : State) (a : Addr) :
    memRead a (writeCharGen v k r s) = if a = .cg k r then (v.extractLsb' 0 5).setWidth 8 else memRead a s := by
  rw [← memRead_memWriteCg]; exact memRead_congr (s := memWriteCg k r v s) (t := writeCharGen v k r s) rfl rfl a

/-! ### Movement keeps the variant -/

theorem shiftAC_display (d : Direction) (l : Fin 2) (c : Fin 40) : ∃ l' c', shiftAC d (.display l c) = .display l' c' := by
  cases d <;> simp only [shiftAC] <;> split <;> exact ⟨_, _, rfl⟩

theorem shiftAC_charGen (d : Direction) (k r : Fin 8) : ∃ k' r', shiftAC d (.charGen k r) = .charGen k' r' := by
  cases d <;> simp only [shiftAC] <;> split <;> exact ⟨_, _, rfl⟩

/-! ### Everything a step can do -/

/-- A step takes no event, an event that is no rising edge, a high nibble, or an event that completes a word. -/
theorem step_cases (s : State) :
    (s.pins = [] ∧ step s = .next s) ∨
    ∃ ev rest, s.pins = ev :: rest ∧
      ((rising s.ePrev ev.e = false ∧ step s = .next ((s.setPins rest).setEPrev ev.e)) ∨
       (rising s.ePrev ev.e = true ∧ s.busMode = .four ∧ s.pending = none ∧
          step s = .next (((s.setPins rest).setEPrev ev.e).setPending (some (highNibble ev.db)))) ∨
       (rising s.ePrev ev.e = true ∧ s.busMode = .eight ∧
          step s = exec (decodeWord (busWord ev.rs ev.db)) ((s.setPins rest).setEPrev ev.e)) ∨
       (∃ h, rising s.ePrev ev.e = true ∧ s.busMode = .four ∧ s.pending = some h ∧
          step s = exec (decodeWord (busWord ev.rs (assembleByte h ev.db))) (((s.setPins rest).setEPrev ev.e).setPending none))) := by
  cases hp : s.pins with
  | nil => left; simp [step, takePinEvent, hp]
  | cons ev rest =>
    right
    refine ⟨ev, rest, rfl, ?_⟩
    cases hr : rising s.ePrev ev.e with
    | false => simp [step, takePinEvent, hp, onPins, hr]
    | true =>
      cases hm : s.busMode with
      | eight => simp [step, takePinEvent, hp, onPins, hr, strobe, hm, dispatchWord]
      | four =>
        cases hq : s.pending with
        | none => simp [step, takePinEvent, hp, onPins, hr, strobe, hm, hq]
        | some h => simp [step, takePinEvent, hp, onPins, hr, strobe, hm, hq, dispatchWord]

end Sys2Proof.Machine
end

