-- ==== Sys2Proof/Laws/PerInstr.lean ====
section
/-! SUPPORT. Facts made per instruction: the encoded word lies in the instruction's own row of the opcode table. -/

namespace Sys2Proof.Laws.EncodeInRow

/-- The encoder's word is covered by the row of the instruction's mnemonic, and by no other row (30_encoding R63, R64). -/
def Statement (i : Instr) : Prop :=
  (opcodeRows.filter (fun r => r.covers (encode i))).map OpcodeRow.mnemonic = [i.mnemonic]

theorem nop : Statement .nop := by unfold Statement; decide

theorem clear : Statement .clear := by unfold Statement; decide

theorem home : Statement .home := by unfold Statement; decide

theorem entry (dir : TextDirection) (shift : Bool) : Statement (.entry dir shift) := by
  unfold Statement; cases dir <;> cases shift <;> decide

theorem dispctl (d c b : Bool) : Statement (.dispctl d c b) := by
  unfold Statement; cases d <;> cases c <;> cases b <;> decide

theorem curshift (dir : Direction) : Statement (.curshift dir) := by unfold Statement; cases dir <;> decide

theorem dispshift (dir : Direction) : Statement (.dispshift dir) := by unfold Statement; cases dir <;> decide

theorem funcset (width : BusMode) (n f : Bit) : Statement (.funcset width n f) := by
  unfold Statement; revert n f; cases width <;> decide

theorem setcg (cell row : Fin 8) : Statement (.setcg cell row) := by unfold Statement; revert cell row; decide

theorem setdd (a : BitVec 7) : Statement (.setdd a) := by unfold Statement; revert a; decide

theorem write (data : Byte) : Statement (.write data) := by unfold Statement; revert data; decide

end Sys2Proof.Laws.EncodeInRow
end

