-- ==== Sys2Proof/Tests/Slice0.lean ====
section
/-! SUPPORT. The model's own tests (expected results from spec/30_encoding R63, R65 and spec/95_test_vectors), and a witness for the hypotheses of each statement. -/

namespace Sys2Proof.Tests

open Sys2Proof Sys2Proof.Machine

/-- The state after one instruction, if there is one. -/
def after (i : Instr) (s : State) : Option State :=
  match exec i s with
  | .next t => some t
  | _ => none

/-- The state after `n` steps, if there is one. -/
def afterSteps (n : Nat) (s : State) : Option State :=
  match runSteps n s with
  | .next t => some t
  | _ => none

/-- The instruction has no successor state here. -/
def refusedHere (i : Instr) (s : State) : Bool :=
  match exec i s with
  | .refused r => decide (r = .setDDOutOfRange)
  | _ => false

def base : State := State.resetWith { busWidthInit := .eight, linesInit := .two }
def four : State := State.resetWith { busWidthInit := .four, linesInit := .one }

/-- A state with the counter elsewhere. -/
def at_ (a : AC) : State := { base with ac := a }

/-! ### Well-formedness: the one check, and its ill-formed term -/

theorem test_wellFormed_refuses_setdd_hole : (Instr.setdd 0x28).wellFormed = false := by decide
theorem test_wellFormed_refuses_setdd_hole_line1 : (Instr.setdd 0x7F).wellFormed = false := by decide
theorem test_wellFormed_accepts_setdd_cell : (Instr.setdd 0x67).wellFormed = true := by decide

/-! ### Decoding: words written out from 30_encoding R63, R65 (ignored bits set where the row has some) -/

theorem test_decode_nop : decodeWord 0b000000000#9 = .nop := by decide
theorem test_decode_clear : decodeWord 0b000000001#9 = .clear := by decide
theorem test_decode_home : decodeWord 0b000000011#9 = .home := by decide
theorem test_decode_entry : decodeWord 0b000000101#9 = .entry .rightToLeft true := by decide
theorem test_decode_dispctl : decodeWord 0b000001100#9 = .dispctl true false false := by decide
theorem test_decode_curshift : decodeWord 0b000010111#9 = .curshift .right := by decide
theorem test_decode_dispshift : decodeWord 0b000011010#9 = .dispshift .left := by decide
theorem test_decode_funcset : decodeWord 0b000110111#9 = .funcset .eight 0 1 := by decide
theorem test_decode_setcg : decodeWord 0b001101101#9 = .setcg 5 5 := by decide
theorem test_decode_setdd : decodeWord 0b011000101#9 = .setdd 0x45 := by decide
theorem test_decode_setdd_hole_is_setdd : decodeWord 0b011111111#9 = .setdd 0x7F := by decide
theorem test_decode_write : decodeWord 0b100001010#9 = .write 0x0A := by decide
theorem test_decode_rejects_wide_number : decodeTableWord 16 512 = none := by decide
theorem test_decode_table_word : decodeTableWord 16 0x148 = some (.write 0x48) := by decide
theorem test_encode_funcset : encode (.funcset .four 1 0) = 0x028 := by decide
theorem test_encode_entry : encode (.entry .leftToRight true) = 0x007 := by decide

/-! ### Instructions (95_test_vectors 2.4 to 2.7) -/

theorem test_nop_example : (after .nop (at_ (.charGen 3 2))).map (·.ac) = some (.charGen 3 2) := by decide
theorem test_clear_from_charGen :
    (after .clear { base with dd := [(0x47, 0x41)], ac := .charGen 3 2, scrollOffset := 5, textDirection := .rightToLeft }).map
      (fun t => (memRead (.dd 1 7) t, t.ac, t.scrollOffset, t.textDirection)) = some (0x20, .display 0 0, 0, .rightToLeft) := by decide
theorem test_home_keeps_memory :
    (after .home { base with dd := [(0, 0x41)], ac := .display 1 12, scrollOffset := 39 }).map
      (fun t => (memRead (.dd 0 0) t, t.ac, t.scrollOffset)) = some (0x41, .display 0 0, 0) := by decide
theorem test_entry_0x05 : (after (decodeCommand 0x05) base).map (fun t => (t.textDirection, t.autoShift)) = some (.rightToLeft, true) := by decide
theorem test_dispctl_0x0D : (after (decodeCommand 0x0D) base).map (fun t => (t.displayOn, t.cursorOn, t.blinkOn)) = some (true, false, true) := by decide
theorem test_curshift_right_flips_line : (after (decodeCommand 0x14) (at_ (.display 0 39))).map (·.ac) = some (.display 1 0) := by decide
theorem test_curshift_left_wraps_cells : (after (decodeCommand 0x10) (at_ (.charGen 0 0))).map (·.ac) = some (.charGen 7 7) := by decide
theorem test_dispshift_left_wraps : (after (decodeCommand 0x18) { base with scrollOffset := 39 }).map (·.scrollOffset) = some 0 := by decide
theorem test_dispshift_right_ignored_bits : (after (decodeCommand 0x1F) { base with scrollOffset := 7 }).map (·.scrollOffset) = some 6 := by decide
theorem test_funcset_0x28 :
    (after (decodeCommand 0x28) base).map (fun t => (t.busMode, t.pending, t.fsLines, t.fsFont)) = some (.four, none, 1, 0) := by decide
theorem test_funcset_0x33 : (after (decodeCommand 0x33) base).map (fun t => (t.busMode, t.fsLines, t.fsFont)) = some (.eight, 0, 0) := by decide
theorem test_setcg_0x7F : (after (decodeCommand 0x7F) base).map (·.ac) = some (.charGen 7 7) := by decide
theorem test_setdd_0xC5 : (after (decodeCommand 0b11000101) (at_ (.charGen 4 4))).map (·.ac) = some (.display 1 5) := by decide
theorem test_setdd_bounds :
    [0x27, 0x28, 0x3F, 0x40, 0x67, 0x68, 0x7F].map (fun a => refusedHere (.setdd (BitVec.ofNat 7 a)) base) =
      [false, true, true, false, false, true, true] := by decide
theorem test_write_rtl_autoshift :
    (after (.write 0x48) { at_ (.display 0 5) with textDirection := .rightToLeft, autoShift := true }).map
      (fun t => (memRead (.dd 0 5) t, t.ac, t.scrollOffset)) = some (0x48, .display 0 4, 39) := by decide
theorem test_write_charGen_masks :
    (after (.write 0xFF) { at_ (.charGen 0 7) with autoShift := true, scrollOffset := 5 }).map
      (fun t => (memRead (.cg 0 7) t, t.ac, t.scrollOffset)) = some (0x1F, .charGen 1 0, 5) := by decide

/-! ### The front end (95_test_vectors 2.2, 2.3) and the snapshot port (2.8) -/

theorem test_data_changed_while_high :
    (afterSteps 3 { base with pins := [⟨0, 1, 0x41⟩, ⟨1, 1, 0x41⟩, ⟨1, 1, 0x42⟩] }).map
      (fun t => (memRead (.dd 0 0) t, t.ac, t.ePrev)) = some (0x41, .display 0 1, 1) := by decide
theorem test_low_lines_ignored_in_four :
    (afterSteps 3 { four with pins := nibblePair 0 0 0xA7 0x5C ⟨0, 0, 0⟩ }).map (·.ac) = some (.display 0 37) := by decide
theorem test_second_rs_counts :
    (afterSteps 3 { four with pins := nibblePair 1 0 0x40 0x10 ⟨0, 0, 0⟩ }).map (fun t => (t.ac, memRead (.dd 0 0) t)) =
      some (.charGen 0 1, 0x20) := by decide
theorem test_fetch_word_four : (match step (four.withFetchWord 16 0x0C5) with | .next t => decide (t.ac = .display 1 5) | _ => false) = true := by decide
theorem test_window_wraps :
    (window 3 (snapshot { base with scrollOffset := 38, dd := [(0, 0x43), (38, 0x41), (39, 0x42)] }) 0) = [0x41, 0x42, 0x43] := by decide

/-! ### Witnesses: a concrete state and operands for the hypotheses of each statement, at the bounds of its ranges -/

def pulse : PinEvent := ⟨1, 0, 0x01⟩
def eightWaiting : State := { base with pins := [pulse] }
def fourWaiting : State := { four with pending := some 0xA0, pins := [⟨1, 0, 0x50⟩] }
def holeWaiting : State := { base with pins := [⟨1, 0, 0xA8⟩] }

theorem witness_EncodeOfDecodeClearsIgnoredBits :
    ((2 : BusWord).toNat = 2 ∨ (2 : BusWord).toNat = 3) ∧ (3 : BusWord).toNat = 3 ∧ 0x10 ≤ (0x10 : BusWord).toNat ∧ (0x3F : BusWord).toNat < 0x40 ∧
    ¬((1 : BusWord).toNat = 2 ∨ (1 : BusWord).toNat = 3) ∧ ¬(0x10 ≤ (0x40 : BusWord).toNat ∧ (0x40 : BusWord).toNat < 0x40) := by decide
theorem witness_EveryWordIsOfExactlyOneRow : opcodeRows.reverse.Perm opcodeRows := List.reverse_perm _
theorem witness_RisingEdgeIsAStrobe :
    eightWaiting.pins = pulse :: [] ∧ eightWaiting.ePrev = 0 ∧ pulse.e = 1 ∧
    ¬(({ eightWaiting with ePrev := 1 } : State).ePrev = 0 ∧ pulse.e = 1) := by decide
theorem witness_OtherEventsChangeOnlyTheLevel :
    ({ base with ePrev := 1, pins := [⟨0, 1, 0x42⟩] } : State).pins = ⟨0, 1, 0x42⟩ :: [] ∧
    (({ base with ePrev := 1 } : State).ePrev = 1 ∧ (0 : Bit) = 0) ∧ (({ base with ePrev := 1 } : State).ePrev = 1 ∧ (1 : Bit) = 1) ∧
    (base.ePrev = 0 ∧ (0 : Bit) = 0) := by decide
theorem witness_QuietEventsKeepThePendingNibble :
    ({ fourWaiting with ePrev := 1, pins := [⟨1, 0, 3⟩, ⟨0, 1, 4⟩] ++ [pulse] } : State).pins = [⟨1, 0, 3⟩, ⟨0, 1, 4⟩] ++ [pulse] ∧
    noRisingEdge 1 [⟨1, 0, 3⟩, ⟨0, 1, 4⟩] = true ∧ noRisingEdge 0 [] = true := by decide
theorem witness_NoEventNoChange : base.pins = [] := by decide
theorem witness_EightModeDeliversTheWholeByte :
    base.busMode = .eight ∧ base.pending = none ∧ (match strobe 0 0x01 base with | .next t => decide (t.pending = none) | _ => false) = true := by decide
theorem witness_FourModeFirstStrobeKeepsTheNibble : four.busMode = .four ∧ four.pending = none := by decide
theorem witness_FourModeSecondStrobeDispatchesTheByte :
    fourWaiting.busMode = .four ∧ fourWaiting.pending = some 0xA0 ∧
    (match strobe 0 0x50 fourWaiting with | .next t => decide (t.ac = .display 0 37) | _ => false) = true := by decide
theorem witness_StepRunsTheDecodedInstruction :
    completedWord eightWaiting = some 0x001 ∧ decodeWord 0x001 = .clear ∧ completedWord fourWaiting = some 0x0A5 ∧ decodeWord 0x0A5 = .setdd 0x25 ∧
    completedWord { four with pins := [pulse] } = none ∧ completedWord base = none ∧ completedWord { eightWaiting with ePrev := 1 } = none := by decide
theorem witness_FetchWordIsRunByTheNextStep : (0 : Nat) < 512 ∧ (511 : Nat) < 512 := by decide
theorem witness_TwoPulsesRunOneWord :
    four.busMode = .four ∧ four.pending = none ∧ four.ePrev = 0 ∧
    ({ four with pins := nibblePair 1 0 (0xA#4 ++ 0x7#4) (0x5#4 ++ 0xC#4) ⟨0, 0, 0⟩ ++ [] } : State).pins =
      nibblePair 1 0 (0xA#4 ++ 0x7#4) (0x5#4 ++ 0xC#4) ⟨0, 0, 0⟩ ++ [] := by decide
theorem witness_DeliveryRunsTheWordInEitherMode : base.pending = none ∧ base.busMode = .eight ∧ four.pending = none ∧ four.busMode = .four := by decide
theorem witness_StepAnswersUnlessASetddHole :
    completedWord eightWaiting = some 0x001 ∧ holeWord 0x001 = false ∧ completedWord holeWaiting = some 0x0A8 ∧ holeWord 0x0A8 = true ∧
    holeWord 0x0BF = true ∧ holeWord 0x0E8 = true ∧ holeWord 0x0FF = true ∧ holeWord 0x0A7 = false ∧ holeWord 0x0C0 = false ∧ holeWord 0x0E7 = false ∧
    holeWord 0x1A8 = false := by decide
theorem witness_ResetNothingPending : ({ busWidthInit := .four, linesInit := .one } : Config.Params).busWidthInit = .four := by decide
theorem witness_ResetChosenValues :
    ({ busWidthInit := .four, linesInit := .one } : Config.Params).linesInit = .one ∧ Config.chosen.linesInit = .two := by decide
theorem witness_StepKeepsTheInvariant : Invariant eightWaiting ∧ ∃ t, step eightWaiting = .next t :=
  ⟨⟨nofun, fun _ => rfl, rfl, rfl⟩, _, rfl⟩
theorem witness_NopChangesNothing :
    ({ four with pending := some 0 } : State).busMode = .four ∧ ({ four with pending := some 0 } : State).pending = some 0 ∧
    ((0x00 : Byte) ||| ((0x0F : Byte) >>> 4)) = 0 := by decide
theorem witness_ClearIsEightyStores : ddWf { base with dd := [(0x27, 0x41), (0x40, 0x42)] } = true := by decide
theorem witness_DisplayCounterMovesAndFlipsTheLine :
    (39 : Fin 40).val = 39 ∧ (38 : Fin 40).val < 39 ∧ (0 : Fin 40).val = 0 ∧ 0 < (1 : Fin 40).val := by decide
theorem witness_CharGenCounterMovesWithCellCarry :
    (7 : Fin 8).val = 7 ∧ (6 : Fin 8).val < 7 ∧ (0 : Fin 8).val = 0 ∧ 0 < (1 : Fin 8).val := by decide
theorem witness_SetcgAddressesARow :
    (match exec .home (at_ (.charGen 1 0)) with | .next u => isDisplay u.ac | _ => false) = true := by decide
theorem witness_SetddAddressesACell :
    (0x00#7).toNat ≤ 0x27 ∧ (0x27#7).toNat ≤ 0x27 ∧ 0x40 ≤ (0x40#7).toNat ∧ (0x67#7).toNat ≤ 0x67 := by decide
theorem witness_FlatAddressMap :
    (0x27#7).toNat ≤ 0x27 ∧ (0x28 ≤ (0x28#7).toNat ∧ (0x3F#7).toNat ≤ 0x3F) ∧ (0x40 ≤ (0x40#7).toNat ∧ (0x67#7).toNat ≤ 0x67) ∧
    0x68 ≤ (0x68#7).toNat := by decide
theorem witness_TextDirectionIsAMoveDirection : base.textDirection = .leftToRight ∧ base.ac = .display 0 0 := by decide
theorem witness_WriteInDisplayModeStoresAndMoves :
    (at_ (.display 0 39)).ac = .display 0 39 ∧ acAddr (at_ (.display 0 39)).ac = .dd 0 39 ∧ (at_ (.display 0 39)).autoShift = false ∧
    ({ at_ (.display 1 0) with autoShift := true } : State).textDirection = .leftToRight ∧
    ({ at_ (.display 1 0) with autoShift := true, textDirection := .rightToLeft } : State).textDirection = .rightToLeft := by decide
theorem witness_WriteInCharGenModeStoresFiveBitsAndMoves :
    (at_ (.charGen 7 7)).ac = .charGen 7 7 ∧ acAddr (at_ (.charGen 7 7)).ac = .cg 7 7 := by decide
theorem witness_WriteLeavesControlFieldsAndOtherMemory :
    (∃ t, exec (.write 1) base = .next t) ∧ isDisplay base.ac = true ∧
    (∃ t, exec (.write 1) (at_ (.charGen 0 0)) = .next t) ∧ isDisplay (at_ (.charGen 0 0)).ac = false ∧
    (base.busMode = .eight ∧ base.pending = none) ∧ (∃ t, strobe 1 0x41 base = .next t) ∧
    (fourWaiting.busMode = .four ∧ fourWaiting.pending ≠ none) ∧ (∃ t, strobe 1 0x50 fourWaiting = .next t) :=
  ⟨⟨_, rfl⟩, rfl, ⟨_, rfl⟩, rfl, ⟨rfl, rfl⟩, ⟨_, rfl⟩, ⟨rfl, nofun⟩, ⟨_, rfl⟩⟩
theorem witness_AutoShiftKeepsTheCursorInPlace :
    ({ at_ (.display 0 39) with autoShift := true } : State).ac = .display 0 39 ∧ ({ at_ (.display 0 39) with autoShift := true } : State).autoShift = true := by
  decide
theorem witness_EightyWritesFillTheDisplay :
    base.ac = .display 0 0 ∧ base.autoShift = false ∧ (List.replicate 80 (0x30 : Byte)).length = 80 ∧ (List.replicate 80 (0x30 : Byte))[79]? = some 0x30 := by
  decide
theorem witness_WriteEffectsCommute :
    (at_ (.display 1 39)).ac = .display 1 39 ∧
    [fun u => u.setAc (shiftAC (moveDir u.textDirection) u.ac), fun u => u.setScroll (autoShifted u), fun u : State => memWriteDd 1 39 0x41 u].Perm
      [fun u => memWriteDd 1 39 0x41 u, fun u => u.setScroll (autoShifted u), fun u => u.setAc (shiftAC (moveDir u.textDirection) u.ac)] ∧
    (at_ (.charGen 7 7)).ac = .charGen 7 7 ∧
    [fun u => u.setAc (shiftAC (moveDir u.textDirection) u.ac), fun u : State => memWriteCg 7 7 0x41 u].Perm
      [fun u => memWriteCg 7 7 0x41 u, fun u => u.setAc (shiftAC (moveDir u.textDirection) u.ac)] :=
  ⟨rfl, List.reverse_perm [_, _, _], rfl, List.reverse_perm [_, _]⟩
theorem witness_InstructionsWriteOnlyTheirState :
    (∃ t, exec .clear base = .next t) ∧ mayWrite .cg (Instr.clear).mnemonic = false ∧ mayWrite .input (Instr.write 0).mnemonic = false :=
  ⟨⟨_, rfl⟩, rfl, rfl⟩
theorem witness_IdempotentInstructions :
    idempotent (Instr.setdd 0x27).mnemonic = true ∧ (∃ t, exec (.setdd 0x27) base = .next t) ∧ idempotent .WRITE = false ∧ idempotent .CURSHIFT = false ∧
    idempotent .DISPSHIFT = false := ⟨rfl, ⟨_, rfl⟩, rfl, rfl, rfl⟩
theorem witness_DisplayFlagsAndRecordedBitsAreInert :
    agreeButInert eightWaiting ((eightWaiting.setDisplay false true true).setFunction .eight 0 1) ∧ (∃ t, step eightWaiting = .next t) ∧
    agreeButInert holeWaiting ((holeWaiting.setDisplay false true true).setFunction .eight 0 1) ∧ step holeWaiting = .refused .setDDOutOfRange :=
  ⟨⟨_, _, _, _, _, rfl⟩, ⟨_, rfl⟩, ⟨_, _, _, _, _, rfl⟩, rfl⟩
theorem witness_SnapshotHidesTheRest :
    sameGroup .dd base (at_ (.charGen 1 1)) ∧ sameGroup .cg base (at_ (.charGen 1 1)) ∧ sameGroup .scroll base (at_ (.charGen 1 1)) ∧
    sameGroup .display base (at_ (.charGen 1 1)) := ⟨fun _ _ => rfl, fun _ _ => rfl, rfl, rfl, rfl, rfl⟩
theorem witness_ResolveCodesBelow128 :
    base.ac = .display 0 0 ∧ (7 : Byte).toNat < 8 ∧ 8 ≤ (8 : Byte).toNat ∧ (31 : Byte).toNat ≤ 31 ∧ (32 : Byte).toNat = (0 : Fin 96).val + 32 ∧
    (127 : Byte).toNat = (95 : Fin 96).val + 32 := by decide
theorem witness_ResolveCodesFrom128HaveNoValue :
    base.ac = .display 0 0 ∧ 128 ≤ (128 : Byte).toNat ∧ 128 ≤ (255 : Byte).toNat := by decide
theorem witness_ResolutionErrorExactlyCodes8To31 : resolve (snapshot base) 10 = .resolutionError 10 ∧ resolve (snapshot base) 25 = .resolutionError 25 :=
  ⟨rfl, rfl⟩
theorem witness_WindowIsTheCellsFromTheOffset :
    (40 : Nat) ≤ 40 ∧ (39 : Nat) < 40 ∧ (windowPosition 38 13).val < 16 ∧ (windowPosition 38 38).val < 1 := by decide

end Sys2Proof.Tests
end

/-! # The state: reset, the invariant, and the fields nothing reads (10_state) -/

namespace Sys2Proof.Machine

/-! ### The kept nibble -/

/-- A kept high nibble is `0xN0` (10_state R20). -/
theorem highNibble_and_low (db : Byte) : highNibble db &&& 0x0F = 0 := by
  simp [highNibble, BitVec.and_assoc]

/-- The upper four lines are kept as they were (40_strobe_bus R85). -/
theorem highNibble_upper (db : Byte) : (highNibble db).extractLsb' 4 4 = db.extractLsb' 4 4 := by
  simp only [highNibble, BitVec.extractLsb'_and]
  exact BitVec.and_allOnes

/-- The high-nibble phase of FOUR mode (40_strobe_bus R85). -/
theorem strobe_four_none {s : State} (hm : s.busMode = .four) (hp : s.pending = none) (rs : Bit) (db : Byte) :
    strobe rs db s = .next (s.setPending (some (highNibble db))) := by
  simp [strobe, hm, hp]

/-! ### Every step keeps the invariant -/

namespace Invariant

variable {s t : State}

/-- The invariant depends on the bus state and the two memories alone. -/
theorem congr (hs : Invariant s) (hp : t.pending = s.pending) (hm : t.busMode = s.busMode)
    (hd : t.dd = s.dd) (hc : t.cg = s.cg) : Invariant t where
  pendingNibble := hp ▸ hs.pendingNibble
  eightNothingPending := hp ▸ hm ▸ hs.eightNothingPending
  ddCanonical := by rw [ddWf, hd]; exact hs.ddCanonical
  cgCanonical := by rw [cgWf, hc]; exact hs.cgCanonical

/-- With nothing pending, in either width, canonical memories are all the invariant asks for. -/
theorem of_pending_none (hp : t.pending = none) (hd : ddWf t = true) (hc : cgWf t = true) : Invariant t where
  pendingNibble h hh := by rw [hp] at hh; cases hh
  eightNothingPending _ := hp
  ddCanonical := hd
  cgCanonical := hc

theorem setPending_none (hs : Invariant s) : Invariant (s.setPending none) :=
  of_pending_none rfl hs.ddCanonical hs.cgCanonical

theorem setPending_highNibble (hs : Invariant s) (hm : s.busMode = .four) (db : Byte) :
    Invariant (s.setPending (some (highNibble db))) where
  pendingNibble _ hh := by cases hh; exact highNibble_and_low db
  eightNothingPending h8 := nomatch hm.symm.trans h8
  ddCanonical := hs.ddCanonical
  cgCanonical := hs.cgCanonical

theorem writeDisplay (hs : Invariant s) (v : Byte) (l : Fin 2) (c : Fin 40) : Invariant (writeDisplay v l c s) where
  pendingNibble := hs.pendingNibble
  eightNothingPending := hs.eightNothingPending
  ddCanonical := memWriteDd_ddWf l c v hs.ddCanonical
  cgCanonical := hs.cgCanonical

theorem writeCharGen (hs : Invariant s) (v : Byte) (k r : Fin 8) : Invariant (writeCharGen v k r s) where
  pendingNibble := hs.pendingNibble
  eightNothingPending := hs.eightNothingPending
  ddCanonical := hs.ddCanonical
  cgCanonical := memWriteCg_cgWf k r v hs.cgCanonical

theorem clearDd (hs : Invariant s) : Invariant (clearDd s) where
  pendingNibble := hs.pendingNibble
  eightNothingPending := hs.eightNothingPending
  ddCanonical := clearDd_ddWf s
  cgCanonical := hs.cgCanonical

/-- FUNCSET may change the width because it drops the pending nibble (42_commands R117). -/
theorem funcset (hs : Invariant s) (m : BusMode) (n f : Bit) : Invariant ((s.setFunction m n f).setPending none) :=
  of_pending_none rfl hs.ddCanonical hs.cgCanonical

/-- Every instruction keeps the invariant; those that write neither memory nor the bus state do so by `congr`. -/
theorem exec_next {i : Instr} (hs : Invariant s) (h : exec i s = .next t) : Invariant t := by
  rcases exec_next_cases h with
    ⟨-, rfl⟩ | ⟨-, rfl⟩ | ⟨-, rfl⟩ | ⟨d, sh, -, rfl⟩ | ⟨d, c, b, -, rfl⟩ | ⟨d, -, rfl⟩ | ⟨d, -, rfl⟩ |
    ⟨m, n, f, -, rfl⟩ | ⟨k, r, -, rfl⟩ | ⟨a, l, c, -, -, rfl⟩ | ⟨v, l, c, -, -, rfl⟩ | ⟨v, k, r, -, -, rfl⟩
  · exact hs
  · exact hs.clearDd.congr rfl rfl rfl rfl
  · exact hs.congr rfl rfl rfl rfl
  · exact hs.congr rfl rfl rfl rfl
  · exact hs.congr rfl rfl rfl rfl
  · exact hs.congr rfl rfl rfl rfl
  · exact hs.congr rfl rfl rfl rfl
  · exact hs.funcset m n f
  · exact hs.congr rfl rfl rfl rfl
  · exact hs.congr rfl rfl rfl rfl
  · exact hs.writeDisplay v l c
  · exact hs.writeCharGen v k r

/-- Every step keeps the invariant, by the five things a step can do. -/
theorem step_next (hs : Invariant s) (h : step s = .next t) : Invariant t := by
  have taken (ev : PinEvent) (rest : List PinEvent) : Invariant ((s.setPins rest).setEPrev ev.e) :=
    hs.congr rfl rfl rfl rfl
  obtain ⟨-, hn⟩ | ⟨ev, rest, -, ⟨-, hn⟩ | ⟨-, hm, -, hn⟩ | ⟨-, -, hn⟩ | ⟨p, -, -, -, hn⟩⟩ := step_cases s
  · cases hn.symm.trans h; exact hs
  · cases hn.symm.trans h; exact taken ev rest
  · cases hn.symm.trans h; exact (taken ev rest).setPending_highNibble hm ev.db
  · exact (taken ev rest).exec_next (hn.symm.trans h)
  · exact (taken ev rest).setPending_none.exec_next (hn.symm.trans h)

end Invariant

/-- Settles O25: a high nibble becomes pending in FOUR mode only, every dispatch finds nothing pending,
and each instruction keeps the invariant. -/
theorem stepKeepsTheInvariant : Obligations.StepKeepsTheInvariant :=
  fun _ _ hs h => hs.step_next h

/-! ### The fields nothing reads: display flags and recorded bits -/

/-- Two outcomes are alike but for the inert fields: two such states, or the same refusal. -/
inductive OutcomesAgree : Host.Outcome State Fault Refusal → Host.Outcome State Fault Refusal → Prop
  | next {s t : State} (h : agreeButInert s t) : OutcomesAgree (.next s) (.next t)
  | refused (r : Refusal) : OutcomesAgree (.refused r) (.refused r)

namespace OutcomesAgree

theorem next_left {s' : State} {o : Host.Outcome State Fault Refusal} (h : OutcomesAgree (.next s') o) :
    ∃ t', o = .next t' ∧ agreeButInert s' t' := by
  cases h with
  | next h => exact ⟨_, rfl, h⟩

theorem refused_left {r : Refusal} {o : Host.Outcome State Fault Refusal} (h : OutcomesAgree (.refused r) o) :
    o = .refused r := by
  cases h with
  | refused => rfl

end OutcomesAgree

namespace agreeButInert

variable {s t : State}

theorem setPending (h : agreeButInert s t) (p : Option Byte) : agreeButInert (s.setPending p) (t.setPending p) := by
  obtain ⟨d, c, b, n, f, rfl⟩ := h
  exact ⟨d, c, b, n, f, rfl⟩

theorem setEPrev (h : agreeButInert s t) (e : Bit) : agreeButInert (s.setEPrev e) (t.setEPrev e) := by
  obtain ⟨d, c, b, n, f, rfl⟩ := h
  exact ⟨d, c, b, n, f, rfl⟩

theorem setPins (h : agreeButInert s t) (evs : List PinEvent) : agreeButInert (s.setPins evs) (t.setPins evs) := by
  obtain ⟨d, c, b, n, f, rfl⟩ := h
  exact ⟨d, c, b, n, f, rfl⟩

/-- What the front end reads is the same in both states. -/
theorem frontEnd_eq (h : agreeButInert s t) :
    t.busMode = s.busMode ∧ t.pending = s.pending ∧ t.ePrev = s.ePrev ∧ t.pins = s.pins := by
  obtain ⟨d, c, b, n, f, rfl⟩ := h
  exact ⟨rfl, rfl, rfl, rfl⟩

/-- DISPCTL and FUNCSET overwrite inert fields with their operands; no other instruction touches one, and none reads one. -/
theorem exec_agree (h : agreeButInert s t) (i : Instr) : OutcomesAgree (exec i s) (exec i t) := by
  obtain ⟨d, c, b, n, f, rfl⟩ := h
  cases i with
  | nop | clear | home | entry | curshift | dispshift | setcg => exact .next ⟨d, c, b, n, f, rfl⟩
  | dispctl d' c' b' => exact .next ⟨d', c', b', n, f, rfl⟩
  | funcset m n' f' => exact .next ⟨d, c, b, n', f', rfl⟩
  | setdd a =>
    cases ha : ddCell a with
    | none => simp only [exec_setdd_hole ha]; exact .refused _
    | some cell => simp only [exec_setdd_cell ha]; exact .next ⟨d, c, b, n, f, rfl⟩
  | write v =>
    cases hac : s.ac with
    | display l c' =>
      rw [exec_write_display hac, exec_write_display (s := (s.setDisplay d c b).setFunction s.busMode n f) hac]
      exact .next ⟨d, c, b, n, f, rfl⟩
    | charGen k r =>
      rw [exec_write_charGen hac, exec_write_charGen (s := (s.setDisplay d c b).setFunction s.busMode n f) hac]
      exact .next ⟨d, c, b, n, f, rfl⟩

theorem strobe_agree (h : agreeButInert s t) (rs : Bit) (db : Byte) : OutcomesAgree (strobe rs db s) (strobe rs db t) := by
  obtain ⟨hm, hp, -, -⟩ := h.frontEnd_eq
  simp only [strobe, dispatchWord, hm, hp]
  cases s.busMode with
  | eight => exact h.exec_agree _
  | four =>
    cases s.pending with
    | none => exact .next (h.setPending _)
    | some nibble => exact (h.setPending none).exec_agree _

theorem onPins_agree (h : agreeButInert s t) (ev : PinEvent) : OutcomesAgree (onPins ev s) (onPins ev t) := by
  obtain ⟨-, -, he, -⟩ := h.frontEnd_eq
  simp only [onPins, he]
  cases rising s.ePrev ev.e with
  | true => exact (h.setEPrev ev.e).strobe_agree ev.rs ev.db
  | false => exact .next (h.setEPrev ev.e)

theorem step_agree (h : agreeButInert s t) : OutcomesAgree (step s) (step t) := by
  obtain ⟨-, -, -, hpins⟩ := h.frontEnd_eq
  simp only [step, takePinEvent, hpins]
  cases s.pins with
  | nil => exact .next h
  | cons ev rest => exact (h.setPins rest).onPins_agree ev

end agreeButInert

/-- Settles O52: the front end and every instruction take states alike but for the inert fields to such outcomes. -/
theorem displayFlagsAndRecordedBitsAreInert : Obligations.DisplayFlagsAndRecordedBitsAreInert :=
  fun _ _ h => ⟨fun _ hs => (hs ▸ h.step_agree).next_left, fun _ hr => (hr ▸ h.step_agree).refused_left⟩

/-! ### Reset -/

/-- With no cell listed, display memory reads as the space code (10_state R25). -/
@[simp] theorem memRead_dd_resetWith (p : Config.Params) (l : Fin 2) (c : Fin 40) :
    memRead (.dd l c) (State.resetWith p) = Config.space := rfl

/-- With no row listed, CGRAM reads as the table of the construction (10_state R27). -/
@[simp] theorem memRead_cg_resetWith (p : Config.Params) (k r : Fin 8) :
    memRead (.cg k r) (State.resetWith p) = (Config.cgramInit k r).setWidth 8 := rfl

theorem invariant_resetWith (p : Config.Params) : Invariant (State.resetWith p) := by
  obtain ⟨hd, hc⟩ := resetWith_memory_wf p
  exact .of_pending_none rfl hd hc

/-- Settles O20: no display cell is listed after reset. -/
theorem resetDisplayMemoryIsSpaces : Obligations.ResetDisplayMemoryIsSpaces :=
  memRead_dd_resetWith

/-- Settles O21: the fields of `State.resetWith`, which no construction option reaches. -/
theorem resetEntryAndDisplayDefaults : Obligations.ResetEntryAndDisplayDefaults :=
  fun _ => ⟨rfl, rfl, rfl, rfl, rfl, rfl⟩

/-- Settles O22: in FOUR mode with nothing pending a strobe is a high-nibble strobe. -/
theorem resetNothingPending : Obligations.ResetNothingPending :=
  fun _ => ⟨rfl, fun h4 rs db => ⟨highNibble db, strobe_four_none h4 rfl rs db, highNibble_upper db⟩⟩

/-- Settles O23: the construction reaches `busMode`, `fsLines` and CGRAM; the other values are constants. -/
theorem resetChosenValues : Obligations.ResetChosenValues := by
  refine ⟨fun p => ⟨rfl, rfl, rfl, rfl, fun h1 => ?_, fun h2 => ?_, memRead_cg_resetWith p⟩, rfl⟩
  · simp [State.resetWith, h1, linesBit]
  · simp [State.resetWith, h2, linesBit]

/-- Settles O24: reset memory is canonical and nothing is pending. -/
theorem resetMeetsTheInvariant : Obligations.ResetMeetsTheInvariant :=
  ⟨invariant_resetWith, invariant_resetWith Config.chosen⟩

end Sys2Proof.Machine

/-! # Memory and its addresses: the counter's ring, idempotence, the flat address map (20_memory) -/

namespace Sys2Proof.Machine

/-! ### The counter walks a ring -/

/-- Right adds one to the index; at the last column or row the carry reaches the other line or the next cell. -/
theorem acIndex_shiftAC_right (a : AC) : acIndex (shiftAC .right a) = (acIndex a + 1) % acRing a := by
  cases a with
  | display line col =>
    simp only [shiftAC, acRing, Fin.ext_iff]
    split <;> simp only [acIndex, Fin.val_add, Fin.val_sub] <;> omega
  | charGen cell row =>
    simp only [shiftAC, acRing, Fin.ext_iff]
    split <;> simp only [acIndex, Fin.val_add] <;> omega

/-- Left takes one from the index, the borrow going the other way. -/
theorem acIndex_shiftAC_left (a : AC) : acIndex (shiftAC .left a) = (acIndex a + (acRing a - 1)) % acRing a := by
  cases a with
  | display line col =>
    simp only [shiftAC, acRing, Fin.ext_iff]
    split <;> simp only [acIndex, Fin.val_sub] <;> omega
  | charGen cell row =>
    simp only [shiftAC, acRing, Fin.ext_iff]
    split <;> simp only [acIndex, Fin.val_sub] <;> omega

@[simp] theorem isDisplay_shiftAC (d : Direction) (a : AC) : isDisplay (shiftAC d a) = isDisplay a := by
  cases a with
  | display line col => obtain ⟨l, c, h⟩ := shiftAC_display d line col; rw [h]; rfl
  | charGen cell row => obtain ⟨k, r, h⟩ := shiftAC_charGen d cell row; rw [h]; rfl

/-- Settles O35: the index law of each direction, and movement keeps the variant. -/
theorem counterWalksARing : Obligations.CounterWalksARing :=
  fun a => ⟨acIndex_shiftAC_right a, acIndex_shiftAC_left a, isDisplay_shiftAC .right a, isDisplay_shiftAC .left a⟩

/-! ### Idempotent instructions: a set field is set, a move moves on -/

/-- No place of either ring is its own neighbour. -/
theorem shiftAC_ne_self (d : Direction) (a : AC) : shiftAC d a ≠ a := by
  intro h
  cases d with
  | right =>
    have hi := acIndex_shiftAC_right a
    rw [h] at hi
    cases a <;> simp only [acRing] at hi <;> omega
  | left =>
    have hi := acIndex_shiftAC_left a
    rw [h] at hi
    cases a <;> simp only [acRing] at hi <;> omega

theorem displayShift_ne_self (d : Direction) (off : Fin 40) : displayShift d off ≠ off := by
  cases d with
  | left => simp [displayShift]
  | right => simp [displayShift]

/-- WRITE moves the counter once in the text direction, in either variant (43_data_write R131, R132). -/
theorem exec_write_ac {v : Byte} {s t : State} (h : exec (.write v) s = .next t) :
    t.ac = shiftAC (moveDir s.textDirection) s.ac := by
  cases hac : s.ac with
  | display l c => rw [exec_write_display hac] at h; cases h; simp [writeDisplay, hac]
  | charGen k r => rw [exec_write_charGen hac] at h; cases h; simp [writeCharGen, hac]

theorem exec_curshift_ne_self (d : Direction) (s : State) : exec (.curshift d) s ≠ .next s := by
  rw [exec_curshift]
  intro h
  exact shiftAC_ne_self d s.ac (congrArg State.ac (Host.Outcome.next.inj h))

theorem exec_dispshift_ne_self (d : Direction) (s : State) : exec (.dispshift d) s ≠ .next s := by
  rw [exec_dispshift]
  intro h
  exact displayShift_ne_self d s.scrollOffset (congrArg State.scrollOffset (Host.Outcome.next.inj h))

theorem exec_write_ne_self (v : Byte) (s : State) : exec (.write v) s ≠ .next s :=
  fun h => shiftAC_ne_self _ s.ac (exec_write_ac h).symm

/-- An instruction that moves nothing sets fields to values that do not depend on the fields it sets. -/
theorem exec_idempotent {i : Instr} {s t : State} (hi : idempotent i.mnemonic = true) (h : exec i s = .next t) :
    exec i t = .next t := by
  rcases exec_next_cases h with
    ⟨rfl, rfl⟩ | ⟨rfl, rfl⟩ | ⟨rfl, rfl⟩ | ⟨d, sh, rfl, rfl⟩ | ⟨d, c, b, rfl, rfl⟩ | ⟨d, rfl, -⟩ | ⟨d, rfl, -⟩ |
    ⟨m, n, f, rfl, rfl⟩ | ⟨k, r, rfl, rfl⟩ | ⟨a, l, c, rfl, hc, rfl⟩ | ⟨v, l, c, rfl, -, -⟩ | ⟨v, k, r, rfl, -, -⟩
  · rfl
  · rfl
  · rfl
  · rfl
  · rfl
  · cases hi
  · cases hi
  · rfl
  · rfl
  · exact exec_setdd_cell hc _
  · cases hi
  · cases hi

/-- Settles O51: what sets fields is idempotent, and a move answers another state from every state, so from the one
it led to from reset. -/
theorem idempotentInstructions : Obligations.IdempotentInstructions := by
  refine ⟨fun _ _ _ => exec_idempotent, fun m hm => ?_⟩
  cases m with
  | CURSHIFT => exact ⟨.curshift .right, .reset, _, rfl, rfl, exec_curshift_ne_self _ _⟩
  | DISPSHIFT => exact ⟨.dispshift .left, .reset, _, rfl, rfl, exec_dispshift_ne_self _ _⟩
  | WRITE => exact ⟨.write 0x41, .reset, _, rfl, rfl, exec_write_ne_self _ _⟩
  | _ => cases hm

/-! ### The flat address map -/

/-- A flat address below 0x40 is a column of line 0, from 0x40 on of line 1 (30_encoding R66). -/
theorem splitFlat_eq_iff {a : BitVec 7} {l : Fin 2} {c : Nat} (hc : c < 0x40) :
    splitFlat a = (l, c) ↔ a.toNat = l.val * 0x40 + c := by
  unfold splitFlat
  split
  · simp only [Prod.mk.injEq, Fin.ext_iff, Fin.val_one]; omega
  · simp only [Prod.mk.injEq, Fin.ext_iff, Fin.val_zero]; omega

/-- A flat address names a cell exactly when it is the cell's key (20_memory R41). -/
theorem ddCell_eq_some_iff {a : BitVec 7} {l : Fin 2} {c : Fin 40} : ddCell a = some (l, c) ↔ a.toNat = ddKey l c := by
  rw [ddKey, ← splitFlat_eq_iff (by omega)]
  constructor
  · intro h
    simp only [ddCell, Option.dite_none_right_eq_some, Option.some.injEq, Prod.mk.injEq] at h
    obtain ⟨-, rfl, rfl⟩ := h
    rfl
  · intro h
    simp [ddCell, h]

theorem ddKey_lt (l : Fin 2) (c : Fin 40) : ddKey l c < 128 := by
  simp only [ddKey]; omega

/-- The map and its inverse (20_memory R41). -/
@[simp] theorem ddCell_ddKey (l : Fin 2) (c : Fin 40) : ddCell (BitVec.ofNat 7 (ddKey l c)) = some (l, c) := by
  rw [ddCell_eq_some_iff, BitVec.toNat_ofNat, Nat.mod_eq_of_lt (ddKey_lt l c)]

/-- The two holes of the map (20_memory R42). -/
theorem ddCell_eq_none_iff {a : BitVec 7} :
    ddCell a = none ↔ (0x28 ≤ a.toNat ∧ a.toNat ≤ 0x3F) ∨ 0x68 ≤ a.toNat := by
  have hcol : ddCell a = none ↔ 40 ≤ (splitFlat a).2 := by simp [ddCell]
  rw [hcol, splitFlat]
  split
  · dsimp only; omega
  · dsimp only; omega

/-- Settles O42: the cell of each range by its key, the two holes, and byte 0b11000101 is SETDD to the key of cell (1, 5). -/
theorem flatAddressMap : Obligations.FlatAddressMap := by
  refine ⟨fun a => ⟨fun h => ?_, fun h => ddCell_eq_none_iff.2 (.inl h), fun h => ?_, fun h => ddCell_eq_none_iff.2 (.inr h)⟩,
    fun l c => ⟨rfl, ddCell_ddKey l c⟩, fun s => ?_⟩
  · refine ⟨⟨a.toNat, by omega⟩, ddCell_eq_some_iff.2 ?_, rfl⟩
    simp [ddKey]
  · refine ⟨⟨a.toNat - 0x40, by omega⟩, ddCell_eq_some_iff.2 ?_, rfl⟩
    simp only [ddKey, Fin.val_one]
    omega
  · have hdec : decodeCommand 0b11000101#8 = .setdd (BitVec.ofNat 7 (ddKey 1 5)) := by decide
    rw [hdec, exec_setdd_cell (ddCell_ddKey 1 5)]
    exact ⟨_, rfl, rfl⟩

end Sys2Proof.Machine

/-! # Encoding: the rows of the opcode table, and how a word is delivered (30_encoding) -/

namespace Sys2Proof

/-! ### A word is its register select and its byte (30_encoding R60) -/

@[simp] theorem rsOf_busWord (rs : Bit) (byte : Byte) : rsOf (busWord rs byte) = rs :=
  BitVec.extractLsb'_append_eq_left

@[simp] theorem byteOf_busWord (rs : Bit) (byte : Byte) : byteOf (busWord rs byte) = byte :=
  BitVec.extractLsb'_append_eq_right

@[simp] theorem busWord_rsOf_byteOf (w : BusWord) : busWord (rsOf w) (byteOf w) = w :=
  (BitVec.extractLsb'_append_extractLsb'_eq_extractLsb' (Nat.zero_add 8).symm).trans BitVec.extractLsb'_eq_self

/-- The register select says whether the byte is a command or data (30_encoding R61, R62). -/
theorem decodeWord_busWord (rs : Bit) (byte : Byte) :
    decodeWord (busWord rs byte) = if rs = 0 then decodeCommand byte else .write byte := by
  simp [decodeWord]

/-! ### The decoder on the words of each row (30_encoding R63, R65) -/

theorem decodeWord_nop : decodeWord 0b000000000#9 = .nop := by decide

theorem decodeWord_clear : decodeWord 0b000000001#9 = .clear := by decide

theorem decodeWord_home (x : Bit) : decodeWord (0b00000001#8 ++ x) = .home := by
  revert x; decide

theorem decodeWord_entry (id s : Bit) :
    decodeWord (0b0000001#7 ++ id ++ s) = .entry (textDirectionOfBit id) (flagOfBit s) := by
  revert id s; decide

theorem decodeWord_dispctl (d c b : Bit) :
    decodeWord (0b000001#6 ++ d ++ c ++ b) = .dispctl (flagOfBit d) (flagOfBit c) (flagOfBit b) := by
  revert d c b; decide

theorem decodeWord_curshift (rl : Bit) (x : BitVec 2) :
    decodeWord (0b000010#6 ++ rl ++ x) = .curshift (directionOfBit rl) := by
  revert rl x; decide

theorem decodeWord_dispshift (rl : Bit) (x : BitVec 2) :
    decodeWord (0b000011#6 ++ rl ++ x) = .dispshift (directionOfBit rl) := by
  revert rl x; decide

theorem decodeWord_funcset (dl n f : Bit) (x : BitVec 2) :
    decodeWord (0b0001#4 ++ dl ++ n ++ f ++ x) = .funcset (busModeOfBit dl) n f := by
  revert dl n f x; decide

theorem decodeWord_setcg (cell row : BitVec 3) :
    decodeWord (0b001#3 ++ cell ++ row) = .setcg cell.toFin row.toFin := by
  revert cell row; decide

theorem decodeWord_setdd (a : BitVec 7) : decodeWord (0b01#2 ++ a) = .setdd a := by
  revert a; decide

theorem decodeWord_write (data : Byte) : decodeWord (0b1#1 ++ data) = .write data :=
  decodeWord_busWord 1 data

/-! ### A field read back from its bit (30_encoding R67) -/

@[simp] theorem textDirectionOfBit_bitOfTextDirection (d : TextDirection) :
    textDirectionOfBit (bitOfTextDirection d) = d := by
  cases d <;> rfl

@[simp] theorem flagOfBit_bitOfFlag (b : Bool) : flagOfBit (bitOfFlag b) = b := by
  cases b <;> rfl

@[simp] theorem directionOfBit_bitOfDirection (d : Direction) : directionOfBit (bitOfDirection d) = d := by
  cases d <;> rfl

@[simp] theorem busModeOfBit_bitOfBusMode (m : BusMode) : busModeOfBit (bitOfBusMode m) = m := by
  cases m <;> rfl

/-! ### Decode after encode -/

theorem decodeWord_encode (i : Instr) : decodeWord (encode i) = i := by
  cases i with
  | nop => exact decodeWord_nop
  | clear => exact decodeWord_clear
  | home => exact decodeWord_home 0
  | entry dir shift => simp [encode, decodeWord_entry]
  | dispctl d c b => simp [encode, decodeWord_dispctl]
  | curshift dir => simp [encode, decodeWord_curshift]
  | dispshift dir => simp [encode, decodeWord_dispshift]
  | funcset width n f => simp [encode, decodeWord_funcset]
  | setcg cell row => simp [encode, decodeWord_setcg]
  | setdd a => exact decodeWord_setdd a
  | write data => exact decodeWord_write data

/-- Settles O2: each row's word carries the operands as its fields, and the decoder reads every field back. -/
theorem decodeOfEncodeIsTheInstruction : Obligations.DecodeOfEncodeIsTheInstruction :=
  decodeWord_encode

/-- Settles O1: each word is an instance of its row. -/
theorem writtenOutWordsDecode : Obligations.WrittenOutWordsDecode :=
  ⟨decodeWord_nop, decodeWord_clear, decodeWord_home 1, decodeWord_entry 1 0, decodeWord_dispctl 1 0 1,
    decodeWord_curshift 0 3, decodeWord_dispshift 1 0, decodeWord_funcset 0 1 0 0, decodeWord_setcg 1 7,
    decodeWord_setdd 0b1000101#7, decodeWord_write 0b10100101#8⟩

/-! ### Every word is of one of the eleven rows (30_encoding R64) -/

theorem toNat_append_eq {n m : Nat} (p : BitVec n) (x : BitVec m) :
    (p ++ x).toNat = 2 ^ m * p.toNat + x.toNat := by
  rw [BitVec.toNat_append, ← Nat.shiftLeft_add_eq_or_of_lt x.isLt, Nat.shiftLeft_eq, Nat.mul_comm]

/-- The words from a prefix followed by zeros to the prefix followed by ones are the prefix followed by any low bits. -/
theorem of_prefix {n m : Nat} {p : BitVec (n + m) → Prop} {q : BitVec n} (h : ∀ x : BitVec m, p (q ++ x))
    {w : BitVec (n + m)} (hw : 2 ^ m * q.toNat ≤ w.toNat ∧ w.toNat < 2 ^ m * q.toNat + 2 ^ m) : p w := by
  have hx : w = q ++ BitVec.ofNatLT (w.toNat - 2 ^ m * q.toNat) (by omega) := by
    apply BitVec.eq_of_toNat_eq
    rw [toNat_append_eq, BitVec.toNat_ofNatLT]
    omega
  rw [hx]
  exact h _

/-- The rows are consecutive intervals of words, so to prove something of every word is to prove it of each row's words. -/
theorem busWord_rows {p : BusWord → Prop} (nop : p 0b000000000#9) (clear : p 0b000000001#9)
    (home : ∀ x : BitVec 1, p (0b00000001#8 ++ x)) (entry : ∀ x : BitVec 2, p (0b0000001#7 ++ x))
    (dispctl : ∀ x : BitVec 3, p (0b000001#6 ++ x)) (curshift : ∀ x : BitVec 3, p (0b000010#6 ++ x))
    (dispshift : ∀ x : BitVec 3, p (0b000011#6 ++ x)) (funcset : ∀ x : BitVec 5, p (0b0001#4 ++ x))
    (setcg : ∀ x : BitVec 6, p (0b001#3 ++ x)) (setdd : ∀ a : BitVec 7, p (0b01#2 ++ a))
    (write : ∀ data : Byte, p (0b1#1 ++ data)) (w : BusWord) : p w := by
  have hw : w.toNat = 0 ∨ w.toNat = 1 ∨ (2 ≤ w.toNat ∧ w.toNat < 4) ∨ (4 ≤ w.toNat ∧ w.toNat < 8) ∨
      (8 ≤ w.toNat ∧ w.toNat < 16) ∨ (16 ≤ w.toNat ∧ w.toNat < 24) ∨ (24 ≤ w.toNat ∧ w.toNat < 32) ∨
      (32 ≤ w.toNat ∧ w.toNat < 64) ∨ (64 ≤ w.toNat ∧ w.toNat < 128) ∨ (128 ≤ w.toNat ∧ w.toNat < 256) ∨
      (256 ≤ w.toNat ∧ w.toNat < 512) := by omega
  rcases hw with h | h | h | h | h | h | h | h | h | h | h
  · rwa [BitVec.eq_of_toNat_eq (y := 0b000000000#9) h]
  · rwa [BitVec.eq_of_toNat_eq (y := 0b000000001#9) h]
  · exact of_prefix home h
  · exact of_prefix entry h
  · exact of_prefix dispctl h
  · exact of_prefix curshift h
  · exact of_prefix dispshift h
  · exact of_prefix funcset h
  · exact of_prefix setcg h
  · exact of_prefix setdd h
  · exact of_prefix write h

/-! ### Encode after decode -/

/-- Settles O3, row by row: HOME, the shift rows and FUNCSET are the intervals of the two masks, and the words of every
other row are encodings. -/
theorem encodeOfDecodeClearsIgnoredBits : Obligations.EncodeOfDecodeClearsIgnoredBits := by
  intro w
  induction w using busWord_rows with
  | nop => decide
  | clear => decide
  | home x => revert x; decide
  | entry x => revert x; decide
  | dispctl x => revert x; decide
  | curshift x => revert x; decide
  | dispshift x => revert x; decide
  | funcset x => revert x; decide
  | setcg x => revert x; decide
  | setdd a =>
    have hw : (0b01#2 ++ a).toNat = 128 + a.toNat := toNat_append_eq _ _
    rw [decodeWord_setdd]
    exact ⟨fun h => by omega, fun h => by omega, fun _ => rfl⟩
  | write data =>
    have hw : (0b1#1 ++ data).toNat = 256 + data.toNat := toNat_append_eq _ _
    rw [decodeWord_write]
    exact ⟨fun h => by omega, fun h => by omega, fun _ => rfl⟩

/-! ### Exactly one row -/

theorem rows_covering (w : BusWord) :
    (opcodeRows.filter (fun r => r.covers w)).map OpcodeRow.mnemonic = [(decodeWord w).mnemonic] := by
  induction w using busWord_rows with
  | nop => exact Laws.EncodeInRow.nop
  | clear => exact Laws.EncodeInRow.clear
  | home x => revert x; decide
  | entry x => revert x; decide
  | dispctl x => revert x; decide
  | curshift x => revert x; decide
  | dispshift x => revert x; decide
  | funcset x => revert x; decide
  | setcg x => revert x; decide
  | setdd a => rw [decodeWord_setdd]; exact Laws.EncodeInRow.setdd a
  | write data => rw [decodeWord_write]; exact Laws.EncodeInRow.write data

/-- Whatever the order of the rows, the first that covers a word is the only one. -/
theorem find?_covers_of_perm {rows : List OpcodeRow} (h : rows.Perm opcodeRows) (w : BusWord) :
    (rows.find? (fun r => r.covers w)).map OpcodeRow.mnemonic = some (decodeWord w).mnemonic := by
  have hone : (rows.filter (fun r => r.covers w)).map OpcodeRow.mnemonic = [(decodeWord w).mnemonic] :=
    List.perm_singleton.1 (rows_covering w ▸ (h.filter _).map _)
  rw [← List.head?_filter, ← List.head?_map, hone, List.head?_cons]

/-- Settles O4: the row of each word, the same row in any order of the rows, and the class sizes, a closed
count over the 256 command bytes. -/
theorem everyWordIsOfExactlyOneRow : Obligations.EveryWordIsOfExactlyOneRow :=
  ⟨rows_covering, fun _ w h => find?_covers_of_perm h w, by decide +kernel⟩

end Sys2Proof

namespace Sys2Proof.Machine

/-! ### The assembler (30_encoding R72) -/

/-- A flat address is one the assembler writes exactly when it names a cell. -/
theorem setdd_wellFormed_eq_false_iff (a : BitVec 7) : (Instr.setdd a).wellFormed = false ↔ ddCell a = none := by
  rw [ddCell_eq_none_iff]
  simp only [Instr.wellFormed, decide_eq_false_iff_not]
  rw [flatColumn]
  omega

/-- Settles O5: SETDD is the one instruction with a condition on its operand. -/
theorem illFormedIsASetddHole : Obligations.IllFormedIsASetddHole := by
  intro i
  cases i with
  | setdd a => simp [setdd_wellFormed_eq_false_iff]
  | _ => simp [Instr.wellFormed]

/-! ### A word in two nibbles (30_encoding R71) -/

@[simp] theorem highNibble_highNibble (db : Byte) : highNibble (highNibble db) = highNibble db := by
  simp [highNibble, BitVec.and_assoc]

/-- The upper lines of the two strobes make the byte, whatever the low lines are (40_strobe_bus R86). -/
theorem assembleByte_nibbles (hi lo x y : BitVec 4) : assembleByte (highNibble (hi ++ x)) (lo ++ y) = hi ++ lo := by
  have hhi : highNibble (hi ++ x) = hi ++ 0#4 := by
    rw [highNibble, show (0xF0 : Byte) = BitVec.allOnes 4 ++ 0#4 from rfl, BitVec.and_append, BitVec.and_allOnes, BitVec.and_zero]
  have hlo : (lo ++ y : Byte) >>> 4 = 0#4 ++ lo := by
    apply BitVec.eq_of_toNat_eq
    rw [BitVec.toNat_ushiftRight, toNat_append_eq, toNat_append_eq, Nat.shiftRight_eq_div_pow, BitVec.toNat_zero]
    omega
  rw [assembleByte, hhi, hlo, BitVec.or_append, BitVec.or_zero, BitVec.zero_or]

/-- The second strobe of a delivery carries the byte's low nibble on the upper lines (30_encoding R71). -/
theorem assembleByte_shiftLeft (b : Byte) : assembleByte (highNibble b) (b <<< 4) = b := by
  obtain ⟨hi, lo, rfl⟩ : ∃ hi lo : BitVec 4, b = hi ++ lo := ⟨b.extractLsb' 4 4, b.extractLsb' 0 4,
    ((BitVec.extractLsb'_append_extractLsb'_eq_extractLsb' (Nat.zero_add 4).symm).trans BitVec.extractLsb'_eq_self).symm⟩
  have hlo : (hi ++ lo : Byte) <<< 4 = lo ++ 0#4 := by
    apply BitVec.eq_of_toNat_eq
    rw [BitVec.toNat_shiftLeft, toNat_append_eq, toNat_append_eq, Nat.shiftLeft_eq, BitVec.toNat_zero]
    omega
  rw [hlo, assembleByte_nibbles]

/-! ### What a strobe and a step do, by the state of the bus -/

/-- EIGHT mode runs the whole byte (40_strobe_bus R84). -/
theorem strobe_eight {s : State} (hm : s.busMode = .eight) (rs : Bit) (db : Byte) :
    strobe rs db s = exec (decodeWord (busWord rs db)) s := by
  simp [strobe, hm, dispatchWord]

/-- The low-nibble phase of FOUR mode runs the assembled byte (40_strobe_bus R86). -/
theorem strobe_four_some {s : State} {h : Byte} (hm : s.busMode = .four) (hp : s.pending = some h) (rs : Bit) (db : Byte) :
    strobe rs db s = exec (decodeWord (busWord rs (assembleByte h db))) (s.setPending none) := by
  simp [strobe, hm, hp, dispatchWord]

/-- A rising edge is a strobe (40_strobe_bus R82). -/
theorem step_rising {s : State} {rs : Bit} {db : Byte} {rest : List PinEvent} (hp : s.pins = ⟨1, rs, db⟩ :: rest) (he : s.ePrev = 0) :
    step s = strobe rs db ((s.setPins rest).setEPrev 1) := by
  simp [step, takePinEvent, hp, onPins, he, rising]

/-- An event with `E` low changes the level alone (40_strobe_bus R88). -/
theorem step_low {s : State} {rs : Bit} {db : Byte} {rest : List PinEvent} (hp : s.pins = ⟨0, rs, db⟩ :: rest) :
    step s = .next ((s.setPins rest).setEPrev 0) := by
  simp [step, takePinEvent, hp, onPins, rising]

/-- A rising edge in EIGHT mode runs the whole byte. -/
theorem step_rising_eight {s : State} {rs : Bit} {db : Byte} {rest : List PinEvent} (hp : s.pins = ⟨1, rs, db⟩ :: rest)
    (he : s.ePrev = 0) (hm : s.busMode = .eight) :
    step s = exec (decodeWord (busWord rs db)) ((s.setPins rest).setEPrev 1) := by
  simp [step_rising hp he, strobe_eight, hm]

/-- A rising edge in FOUR mode with nothing pending keeps the high nibble. -/
theorem step_rising_four_none {s : State} {rs : Bit} {db : Byte} {rest : List PinEvent} (hp : s.pins = ⟨1, rs, db⟩ :: rest)
    (he : s.ePrev = 0) (hm : s.busMode = .four) (hq : s.pending = none) :
    step s = .next (((s.setPins rest).setEPrev 1).setPending (some (highNibble db))) := by
  simp [step_rising hp he, strobe_four_none, hm, hq]

/-- A rising edge in FOUR mode with a nibble pending runs the assembled byte. -/
theorem step_rising_four_some {s : State} {rs : Bit} {db h : Byte} {rest : List PinEvent} (hp : s.pins = ⟨1, rs, db⟩ :: rest)
    (he : s.ePrev = 0) (hm : s.busMode = .four) (hq : s.pending = some h) :
    step s = exec (decodeWord (busWord rs (assembleByte h db))) (((s.setPins rest).setEPrev 1).setPending none) := by
  rw [step_rising hp he, strobe_four_some (by simpa using hm) (by simpa using hq)]

/-! ### Runs and deliveries, one step or strobe at a time -/

theorem runSteps_next {s t : State} (h : step s = .next t) (n : Nat) : runSteps (n + 1) s = runSteps n t := by
  simp [runSteps, h]

@[simp] theorem runSteps_one (s : State) : runSteps 1 s = step s := by
  simp only [runSteps]
  cases step s <;> rfl

theorem strobeAll_next {rs : Bit} {db : Byte} {s t : State} (h : strobe rs db s = .next t) (rest : List (Bit × Byte)) :
    strobeAll ((rs, db) :: rest) s = strobeAll rest t := by
  simp [strobeAll, h]

@[simp] theorem strobeAll_singleton (rs : Bit) (db : Byte) (s : State) : strobeAll [(rs, db)] s = strobe rs db s := by
  simp only [strobeAll]
  cases strobe rs db s <;> rfl

/-! ### The presented word (log 2) -/

theorem presentWord_eight {s : State} (hm : s.busMode = .eight) (w : BusWord) :
    presentWord w s = (s.setEPrev 0).setPins (⟨1, rsOf w, byteOf w⟩ :: s.pins) := by
  simp [presentWord, hm]

theorem presentWord_four {s : State} (hm : s.busMode = .four) (w : BusWord) :
    presentWord w s =
      ((s.setEPrev 0).setPending (some (highNibble (byteOf w)))).setPins (⟨1, rsOf w, byteOf w <<< 4⟩ :: s.pins) := by
  simp [presentWord, hm]

@[simp] theorem State.setPending_setPending (s : State) (p q : Option Byte) : (s.setPending p).setPending q = s.setPending q := rfl

theorem State.setPending_eq_self {p : Option Byte} {s : State} (h : s.pending = p) : s.setPending p = s := by
  subst h; rfl

/-! ### Delivery of a word -/

/-- Settles O16: the first pulse leaves the high nibble pending, the fall leaves it there, and the second pulse completes
the word. -/
theorem twoPulsesRunOneWord : Obligations.TwoPulsesRunOneWord := by
  intro s rs0 rs hi lo x y idle rest hm hq he hp
  rw [runSteps_next (step_rising_four_none hp he hm hq), runSteps_next (step_low rfl), runSteps_one]
  refine (step_rising_four_some rfl rfl (by simpa using hm) rfl).trans ?_
  rw [assembleByte_nibbles]
  simp [State.setPins, State.setEPrev, State.setPending, hq]

/-- Settles O17: in FOUR mode the first strobe leaves the byte's high nibble pending and the second completes the word. -/
theorem deliveryRunsTheWordInEitherMode : Obligations.DeliveryRunsTheWordInEitherMode := by
  intro s w hq
  cases hm : s.busMode with
  | eight => rw [deliveryStrobes, strobeAll_singleton, strobe_eight hm, busWord_rsOf_byteOf]
  | four =>
    have hlow := strobe_four_some (s := s.setPending (some (highNibble (byteOf w)))) hm rfl (rsOf w) (byteOf w <<< 4)
    rw [deliveryStrobes, strobeAll_next (strobe_four_none hm hq _ _), highNibble_highNibble, strobeAll_singleton, hlow,
      assembleByte_shiftLeft, busWord_rsOf_byteOf, State.setPending_setPending,
      State.setPending_eq_self hq]

theorem decodeTableWord_of_lt {w : Nat} (hw : w < 512) :
    decodeTableWord 16 w = some (decodeWord (BitVec.ofNat 9 (w % 2 ^ 16))) := by
  have h : w % 2 ^ 16 < 512 := by omega
  rw [decodeTableWord, decodeNat, if_pos h]

/-- A word presented in EIGHT mode is run by the next step. -/
theorem step_presentWord_eight {s : State} (hm : s.busMode = .eight) (w : BusWord) :
    step (presentWord w s) = exec (decodeWord w) (s.setEPrev 1) := by
  rw [presentWord_eight hm]
  refine (step_rising_eight rfl rfl (by simpa using hm)).trans ?_
  rw [busWord_rsOf_byteOf]
  rfl

/-- A word presented in FOUR mode is completed and run by the next step, which leaves nothing pending. -/
theorem step_presentWord_four {s : State} (hm : s.busMode = .four) (w : BusWord) :
    step (presentWord w s) = exec (decodeWord w) ((s.setEPrev 1).setPending none) := by
  rw [presentWord_four hm]
  refine (step_rising_four_some rfl rfl (by simpa using hm) rfl).trans ?_
  rw [assembleByte_shiftLeft, busWord_rsOf_byteOf]
  simp [State.setPins, State.setEPrev, State.setPending]

/-- Settles O15: a number below 512 is a bus word, and in either mode the step after it is presented runs it. -/
theorem fetchWordIsRunByTheNextStep : Obligations.FetchWordIsRunByTheNextStep := by
  intro s w hw
  refine ⟨_, decodeTableWord_of_lt hw, ?_⟩
  rw [State.withFetchWord]
  cases hm : s.busMode with
  | eight =>
    rw [step_presentWord_eight hm]
    dsimp only
    rw [← hm]
    rfl
  | four =>
    rw [step_presentWord_four hm]
    dsimp only
    rw [← hm]
    rfl

end Sys2Proof.Machine

/-! # The strobe bus: edges, the two widths, dispatch (40_strobe_bus) -/

namespace Sys2Proof.Machine

/-! ### Edge detection (40_strobe_bus R82, R88) -/

theorem rising_eq_true_iff {p e : Bit} : rising p e = true ↔ p = 0 ∧ e = 1 := by
  simp [rising]

theorem rising_eq_false_iff {p e : Bit} : rising p e = false ↔ ¬(p = 0 ∧ e = 1) := by
  rw [← rising_eq_true_iff, Bool.not_eq_true]

/-- An event that does not raise `E` changes the level alone. -/
theorem step_not_rising {s : State} {ev : PinEvent} {rest : List PinEvent} (hp : s.pins = ev :: rest)
    (h : ¬(s.ePrev = 0 ∧ ev.e = 1)) : step s = .next ((s.setPins rest).setEPrev ev.e) := by
  simp [step, takePinEvent, hp, onPins, rising_eq_false_iff.2 h]

theorem noRisingEdge_cons {e : Bit} {ev : PinEvent} {evs : List PinEvent} :
    noRisingEdge e (ev :: evs) = true ↔ ¬(e = 0 ∧ ev.e = 1) ∧ noRisingEdge ev.e evs = true := by
  have h : noRisingEdge e (ev :: evs) = (!rising e ev.e && noRisingEdge ev.e evs) := rfl
  rw [h, Bool.and_eq_true, Bool.not_eq_true', rising_eq_false_iff]

/-- Settles O8, by induction on the quiet events: each changes the level alone, and the next is quiet from that level. -/
theorem quietEventsKeepThePendingNibble : Obligations.QuietEventsKeepThePendingNibble := by
  intro evs
  induction evs with
  | nil =>
    rintro s rest rfl -
    rfl
  | cons ev evs ih =>
    intro s rest hp hq
    obtain ⟨hev, hevs⟩ := noRisingEdge_cons.1 hq
    rw [List.length_cons, runSteps_next (step_not_rising hp hev)]
    exact ih _ rest rfl hevs

/-- Settles O6: a rising edge is a strobe, every other event keeps its level, and the edge bit is 0 after reset. -/
theorem risingEdgeIsAStrobe : Obligations.RisingEdgeIsAStrobe := by
  refine ⟨fun s ev rest hp he h1 => ?_, fun s ev rest hp h => step_not_rising hp h, fun _ => rfl⟩
  obtain ⟨e, rs, db⟩ := ev
  cases h1
  exact step_rising hp he

/-- Settles O7: in none of the three cases is `E` low before and high after. -/
theorem otherEventsChangeOnlyTheLevel : Obligations.OtherEventsChangeOnlyTheLevel := by
  intro s e rs db rest hp hcases
  refine step_not_rising hp ?_
  rintro ⟨h0, h1⟩
  rcases hcases with ⟨h, -⟩ | ⟨h, -⟩ | ⟨-, h⟩
  · exact absurd (h0.symm.trans h) (by decide)
  · exact absurd (h0.symm.trans h) (by decide)
  · exact absurd (h.symm.trans h1) (by decide)

/-! ### The two widths (40_strobe_bus R84 to R86, R91) -/

/-- No instruction makes a nibble pending: FUNCSET drops it, no other instruction touches it (10_state R24). -/
theorem exec_pending_none {i : Instr} {s t : State} (hs : s.pending = none) (h : exec i s = .next t) : t.pending = none := by
  cases i with
  | nop | clear | home | entry | dispctl | curshift | dispshift | setcg => cases h; exact hs
  | funcset m n f => cases h; rfl
  | setdd a =>
    cases ha : ddCell a with
    | none => rw [exec_setdd_hole ha] at h; cases h
    | some cell => rw [exec_setdd_cell ha] at h; cases h; exact hs
  | write v =>
    cases hac : s.ac with
    | display l c => rw [exec_write_display hac] at h; cases h; exact hs
    | charGen k r => rw [exec_write_charGen hac] at h; cases h; exact hs

/-- Settles O10: the whole byte is the word's byte, and no instruction makes a nibble pending. -/
theorem eightModeDeliversTheWholeByte : Obligations.EightModeDeliversTheWholeByte :=
  fun _ rs db hm => ⟨strobe_eight hm rs db, fun hs _ h => exec_pending_none hs ((strobe_eight hm rs db).symm.trans h)⟩

/-- Settles O11: the high-nibble phase, the kept nibble written out. -/
theorem fourModeFirstStrobeKeepsTheNibble : Obligations.FourModeFirstStrobeKeepsTheNibble :=
  fun _ rs db hm hp => strobe_four_none hm hp rs db

/-- Settles O12: the nibble is consumed before the assembled byte is dispatched, so nothing is pending after it. -/
theorem fourModeSecondStrobeDispatchesTheByte : Obligations.FourModeSecondStrobeDispatchesTheByte := by
  refine ⟨fun s rs db h hm hp => ⟨strobe_four_some hm hp rs db, fun t ht => ?_⟩, fun s rs hm hp => ?_⟩
  · rw [strobe_four_some hm hp] at ht
    exact exec_pending_none rfl ht
  · have hbyte : assembleByte 0xA0 0x50 = 0xA5 := by decide
    rw [strobe_four_some hm hp, hbyte]
    rfl

/-- Settles O18: FUNCSET leaves the new width with nothing pending, so the next strobe is the first of that width. -/
theorem newWidthGovernsTheNextStrobe : Obligations.NewWidthGovernsTheNextStrobe :=
  fun s n f rs db =>
    ⟨⟨_, exec_funcset .four n f s, strobe_four_none rfl rfl rs db⟩, ⟨_, exec_funcset .eight n f s, strobe_eight rfl rs db⟩⟩

/-! ### Dispatch (40_strobe_bus R87) -/

/-- Settles O13: the register select is the word's upper bit, which the decoder reads first. -/
theorem dispatchSelectsByRegisterSelect : Obligations.DispatchSelectsByRegisterSelect := by
  intro s byte
  constructor
  · rw [dispatchWord, decodeWord_busWord, if_pos rfl]
  · rw [dispatchWord, decodeWord_busWord, if_neg (by decide)]

/-! ### The completed word, by the state of the bus -/

section CompletedWord

variable {s : State} {ev : PinEvent} {rest : List PinEvent}

theorem completedWord_idle (hp : s.pins = []) : completedWord s = none := by
  simp [completedWord, hp]

theorem completedWord_not_rising (hp : s.pins = ev :: rest) (hr : rising s.ePrev ev.e = false) : completedWord s = none := by
  simp only [completedWord, hp, if_neg (rising_eq_false_iff.1 hr)]

theorem completedWord_four_none (hp : s.pins = ev :: rest) (hm : s.busMode = .four) (hq : s.pending = none) :
    completedWord s = none := by
  simp [completedWord, hp, hm, hq]

theorem completedWord_eight (hp : s.pins = ev :: rest) (hr : rising s.ePrev ev.e = true) (hm : s.busMode = .eight) :
    completedWord s = some (busWord ev.rs ev.db) := by
  simp [completedWord, hp, rising_eq_true_iff.1 hr, hm]

theorem completedWord_four_some {h : Byte} (hp : s.pins = ev :: rest) (hr : rising s.ePrev ev.e = true)
    (hm : s.busMode = .four) (hq : s.pending = some h) :
    completedWord s = some (busWord ev.rs (assembleByte h ev.db)) := by
  simp [completedWord, hp, rising_eq_true_iff.1 hr, hm, hq, assembleByte]

end CompletedWord

/-! ### A step runs the completed word, or nothing -/

/-- The front end's own updates stay within the pending nibble and the input. -/
theorem sameExcept_frontEnd (s : State) (evs : List PinEvent) (e : Bit) (p : Option Byte) :
    sameExcept [.pending, .input] s (((s.setPins evs).setEPrev e).setPending p) := by
  intro g hg
  cases g with
  | pending | input => simp at hg
  | dd | cg => exact fun _ _ => memRead_congr rfl rfl _
  | ac | scroll => rfl
  | entry => exact ⟨rfl, rfl⟩
  | display | function => exact ⟨rfl, rfl, rfl⟩

/-- A step that completes a word runs it on the state with the event taken, and the nibble too in FOUR mode. -/
theorem step_of_completedWord_some {s : State} {w : BusWord} (hw : completedWord s = some w) :
    step s = exec (decodeWord w)
      (((s.setPins s.pins.tail).setEPrev 1).setPending (if s.busMode = .eight then s.pending else none)) := by
  obtain ⟨hp, -⟩ | ⟨ev, rest, hp, ⟨hr, -⟩ | ⟨-, hm, hq, -⟩ | ⟨hr, hm, hs⟩ | ⟨h, hr, hm, hq, hs⟩⟩ := step_cases s
  · cases (completedWord_idle hp).symm.trans hw
  · cases (completedWord_not_rising hp hr).symm.trans hw
  · cases (completedWord_four_none hp hm hq).symm.trans hw
  · cases (completedWord_eight hp hr hm).symm.trans hw
    rw [hs, hp, (rising_eq_true_iff.1 hr).2, if_pos hm]
    rfl
  · cases (completedWord_four_some hp hr hm hq).symm.trans hw
    rw [hs, hp, (rising_eq_true_iff.1 hr).2, if_neg (by simp [hm])]
    rfl

/-- A step that completes no word takes the event, keeps its level, and at most makes a nibble pending. -/
theorem step_of_completedWord_none {s : State} (hw : completedWord s = none) :
    ∃ e p, step s = .next (((s.setPins s.pins.tail).setEPrev e).setPending p) := by
  obtain ⟨hp, hs⟩ | ⟨ev, rest, hp, ⟨-, hs⟩ | ⟨-, -, -, hs⟩ | ⟨hr, hm, -⟩ | ⟨h, hr, hm, hq, -⟩⟩ := step_cases s
  · refine ⟨s.ePrev, s.pending, hs.trans ?_⟩
    rw [show s.pins.tail = s.pins by rw [hp, List.tail_nil]]
    rfl
  · rw [hp]; exact ⟨ev.e, s.pending, hs⟩
  · rw [hp]; exact ⟨ev.e, some (highNibble ev.db), hs⟩
  · cases (completedWord_eight hp hr hm).symm.trans hw
  · cases (completedWord_four_some hp hr hm hq).symm.trans hw

/-- Settles O14: by whether the event completes a word, and then by the width. -/
theorem stepRunsTheDecodedInstruction : Obligations.StepRunsTheDecodedInstruction := by
  constructor
  · rintro s w _ hw rfl
    rw [step_of_completedWord_some hw]
    cases hm : s.busMode <;> simp [State.setPins, State.setEPrev, State.setPending, hm]
  · intro s hw
    obtain ⟨e, p, hs⟩ := step_of_completedWord_none hw
    exact ⟨_, hs, rfl, sameExcept_frontEnd s _ e p⟩

end Sys2Proof.Machine

/-! # The address counter: its moves, and the direction of a data write (41_address_counter) -/

namespace Sys2Proof.Machine

/-! ### A counter value is its variant and its place on the ring (20_memory R46) -/

theorem acRing_eq_ite (a : AC) : acRing a = if isDisplay a then 80 else 64 := by
  cases a <;> rfl

theorem acIndex_lt_acRing (a : AC) : acIndex a < acRing a := by
  cases a with
  | display line col => simp only [acIndex, acRing]; omega
  | charGen cell row => simp only [acIndex, acRing]; omega

/-- A whole ring added to the index is nothing. -/
theorem acIndex_add_acRing_mod (a : AC) : (acIndex a + acRing a) % acRing a = acIndex a := by
  rw [Nat.add_mod_right, Nat.mod_eq_of_lt (acIndex_lt_acRing a)]

/-- Places of one variant with the same index are the same place. -/
theorem eq_of_acIndex_eq {a b : AC} (hv : isDisplay a = isDisplay b) (hi : acIndex a = acIndex b) : a = b := by
  cases a with
  | display line col =>
    cases b with
    | display line' col' =>
      simp only [acIndex] at hi
      simp only [AC.display.injEq, Fin.ext_iff]
      omega
    | charGen _ _ => cases hv
  | charGen cell row =>
    cases b with
    | display _ _ => cases hv
    | charGen cell' row' =>
      simp only [acIndex] at hi
      simp only [AC.charGen.injEq, Fin.ext_iff]
      omega

/-! ### Moves on the ring (41_address_counter R104) -/

@[simp] theorem acRing_shiftAC (d : Direction) (a : AC) : acRing (shiftAC d a) = acRing a := by
  simp only [acRing_eq_ite, isDisplay_shiftAC]

/-- A move and its opposite add one to the index and take it away again. -/
theorem shiftAC_opposite_shiftAC (d : Direction) (a : AC) : shiftAC (opposite d) (shiftAC d a) = a := by
  have hlt := acIndex_lt_acRing a
  apply eq_of_acIndex_eq
  · simp only [isDisplay_shiftAC]
  · rw [← acIndex_add_acRing_mod a]
    cases d with
    | right =>
      rw [opposite, acIndex_shiftAC_left, acIndex_shiftAC_right, acRing_shiftAC, Nat.mod_add_mod]
      congr 1; omega
    | left =>
      rw [opposite, acIndex_shiftAC_right, acIndex_shiftAC_left, acRing_shiftAC, Nat.mod_add_mod]
      congr 1; omega

@[simp] theorem isDisplay_iterate_shiftAC (d : Direction) (n : Nat) (a : AC) : isDisplay ((shiftAC d)^[n] a) = isDisplay a := by
  induction n with
  | zero => rfl
  | succ n ih => rw [Function.iterate_succ_apply', isDisplay_shiftAC, ih]

@[simp] theorem acRing_iterate_shiftAC (d : Direction) (n : Nat) (a : AC) : acRing ((shiftAC d)^[n] a) = acRing a := by
  simp only [acRing_eq_ite, isDisplay_iterate_shiftAC]

theorem acIndex_iterate_shiftAC_right (n : Nat) (a : AC) :
    acIndex ((shiftAC .right)^[n] a) = (acIndex a + n) % acRing a := by
  induction n with
  | zero => exact (Nat.mod_eq_of_lt (acIndex_lt_acRing a)).symm
  | succ n ih =>
    rw [Function.iterate_succ_apply', acIndex_shiftAC_right, acRing_iterate_shiftAC, ih, Nat.mod_add_mod, Nat.add_assoc]

theorem iterate_shiftAC_right_acRing (a : AC) : (shiftAC .right)^[acRing a] a = a :=
  eq_of_acIndex_eq (isDisplay_iterate_shiftAC _ _ a)
    ((acIndex_iterate_shiftAC_right _ a).trans (acIndex_add_acRing_mod a))

/-- A whole ring of moves Left undoes a whole ring of moves Right, which led back to the start. -/
theorem iterate_shiftAC_left_acRing (a : AC) : (shiftAC .left)^[acRing a] a = a := by
  have hinv : Function.LeftInverse (shiftAC .left) (shiftAC .right) := shiftAC_opposite_shiftAC .right
  calc (shiftAC .left)^[acRing a] a
      = (shiftAC .left)^[acRing a] ((shiftAC .right)^[acRing a] a) := by rw [iterate_shiftAC_right_acRing]
    _ = a := hinv.iterate (acRing a) a

/-- Settles O36: a move and its opposite cancel on the index, and a whole ring of moves is nothing modulo the ring. -/
theorem counterMovesAreInverseAndPeriodic : Obligations.CounterMovesAreInverseAndPeriodic := by
  intro a d
  refine ⟨shiftAC_opposite_shiftAC d a, ?_⟩
  cases d with
  | right => exact iterate_shiftAC_right_acRing a
  | left => exact iterate_shiftAC_left_acRing a

/-! ### One move, by the place it starts from (41_address_counter R102, R103) -/

/-- Settles O33: at either bound the other line is `1 - line`, and before it the column alone moves. -/
theorem displayCounterMovesAndFlipsTheLine : Obligations.DisplayCounterMovesAndFlipsTheLine := by
  have hflip (line : Fin 2) : (1 - line).val = 1 - line.val := by simp only [Fin.val_sub]; omega
  intro line col
  refine ⟨fun h => ?_, fun h => ?_, fun h => ?_, fun h => ?_⟩
  · obtain rfl : col = 39 := Fin.ext h
    exact ⟨1 - line, rfl, hflip line⟩
  · exact ⟨col + 1, if_neg (Fin.ne_of_lt h), Fin.val_add_one_of_lt h⟩
  · obtain rfl : col = 0 := Fin.ext h
    exact ⟨1 - line, rfl, hflip line⟩
  · have hne : col ≠ 0 := Fin.ne_of_gt h
    exact ⟨col - 1, if_neg hne, Fin.val_sub_one_of_ne_zero hne⟩

/-- Settles O34: at either bound the carry goes to the neighbouring cell, and before it the row alone moves. -/
theorem charGenCounterMovesWithCellCarry : Obligations.CharGenCounterMovesWithCellCarry := by
  intro cell row
  refine ⟨fun h => ?_, fun h => ?_, fun h => ?_, fun h => ?_⟩
  · obtain rfl : row = 7 := Fin.ext h
    exact ⟨cell + 1, rfl, Fin.val_add cell 1⟩
  · exact ⟨row + 1, if_neg (Fin.ne_of_lt h), Fin.val_add_one_of_lt h⟩
  · obtain rfl : row = 0 := Fin.ext h
    exact ⟨cell - 1, rfl, by simp only [Fin.val_sub]; omega⟩
  · have hne : row ≠ 0 := Fin.ne_of_gt h
    exact ⟨row - 1, if_neg hne, Fin.val_sub_one_of_ne_zero hne⟩

/-! ### Data writes in the text direction (41_address_counter R101) -/

theorem execAll_next {i : Instr} {s t : State} (h : exec i s = .next t) (rest : List Instr) :
    execAll (i :: rest) s = execAll rest t := by
  simp only [execAll, h]

@[simp] theorem writeDisplay_textDirection (v : Byte) (l : Fin 2) (c : Fin 40) (s : State) :
    (writeDisplay v l c s).textDirection = s.textDirection := rfl

@[simp] theorem writeDisplay_ac (v : Byte) (l : Fin 2) (c : Fin 40) (s : State) :
    (writeDisplay v l c s).ac = shiftAC (moveDir s.textDirection) s.ac := rfl

/-- Settles O43: each of the three writes stores at the counter the one before left, and the later ones store elsewhere. -/
theorem textDirectionIsAMoveDirection : Obligations.TextDirectionIsAMoveDirection := by
  refine ⟨rfl, rfl, fun s b0 b1 b2 hd h0 => ?_⟩
  have h1 : (writeDisplay b0 0 0 s).ac = .display 0 1 := by
    rw [writeDisplay_ac, hd, h0]; rfl
  have h2 : (writeDisplay b1 0 1 (writeDisplay b0 0 0 s)).ac = .display 0 2 := by
    rw [writeDisplay_ac, writeDisplay_textDirection, hd, h1]; rfl
  have h3 : (writeDisplay b2 0 2 (writeDisplay b1 0 1 (writeDisplay b0 0 0 s))).ac = .display 0 3 := by
    rw [writeDisplay_ac, writeDisplay_textDirection, writeDisplay_textDirection, hd, h2]; rfl
  refine ⟨_, ?_, h3, ?_, ?_, ?_⟩
  · rw [execAll_next (exec_write_display h0 b0), execAll_next (exec_write_display h1 b1),
      execAll_next (exec_write_display h2 b2), execAll]
  · simp [memRead_writeDisplay]
  · simp [memRead_writeDisplay]
  · simp [memRead_writeDisplay]

end Sys2Proof.Machine

/-! # The commands: the write matrix as a frame, and what each command does (42_commands) -/

namespace Sys2Proof.Machine

/-! ### Frames: which groups an update leaves -/

theorem sameGroup_refl (g : FieldGroup) (s : State) : sameGroup g s s := by
  cases g with
  | dd | cg => exact fun _ _ => rfl
  | ac | scroll | pending => rfl
  | entry | input => exact ⟨rfl, rfl⟩
  | display | function => exact ⟨rfl, rfl, rfl⟩

theorem sameGroup_trans {g : FieldGroup} {s t u : State} (h : sameGroup g s t) (h' : sameGroup g t u) : sameGroup g s u := by
  cases g with
  | dd | cg => exact fun x y => (h' x y).trans (h x y)
  | ac | scroll | pending => exact h'.trans h
  | entry | input => exact ⟨h'.1.trans h.1, h'.2.trans h.2⟩
  | display | function => exact ⟨h'.1.trans h.1, h'.2.1.trans h.2.1, h'.2.2.trans h.2.2⟩

namespace sameExcept

variable {gs gs' : List FieldGroup} {s t u : State}

theorem refl (gs : List FieldGroup) (s : State) : sameExcept gs s s :=
  fun g _ => sameGroup_refl g s

theorem trans (h : sameExcept gs s t) (h' : sameExcept gs' t u) : sameExcept (gs ++ gs') s u := by
  intro g hg
  rw [List.mem_append, not_or] at hg
  exact sameGroup_trans (h g hg.1) (h' g hg.2)

theorem mono (h : sameExcept gs s t) (hsub : gs ⊆ gs') : sameExcept gs' s t :=
  fun g hg => h g (fun hmem => hg (hsub hmem))

/-! One rule per update of the state: it stays within its own group of fields. -/

theorem setDd (s : State) (m : Memory 8) : sameExcept [.dd] s (s.setDd m) := by
  intro g hg
  have h := sameGroup_refl g s
  cases g with
  | dd => simp at hg
  | _ => exact h

theorem setCg (s : State) (m : Memory 5) : sameExcept [.cg] s (s.setCg m) := by
  intro g hg
  have h := sameGroup_refl g s
  cases g with
  | cg => simp at hg
  | _ => exact h

theorem setAc (s : State) (a : AC) : sameExcept [.ac] s (s.setAc a) := by
  intro g hg
  have h := sameGroup_refl g s
  cases g with
  | ac => simp at hg
  | _ => exact h

theorem setScroll (s : State) (off : Fin 40) : sameExcept [.scroll] s (s.setScroll off) := by
  intro g hg
  have h := sameGroup_refl g s
  cases g with
  | scroll => simp at hg
  | _ => exact h

theorem setEntry (s : State) (d : TextDirection) (sh : Bool) : sameExcept [.entry] s (s.setEntry d sh) := by
  intro g hg
  have h := sameGroup_refl g s
  cases g with
  | entry => simp at hg
  | _ => exact h

theorem setDisplay (s : State) (d c b : Bool) : sameExcept [.display] s (s.setDisplay d c b) := by
  intro g hg
  have h := sameGroup_refl g s
  cases g with
  | display => simp at hg
  | _ => exact h

theorem setFunction (s : State) (m : BusMode) (n f : Bit) : sameExcept [.function] s (s.setFunction m n f) := by
  intro g hg
  have h := sameGroup_refl g s
  cases g with
  | function => simp at hg
  | _ => exact h

theorem setPending (s : State) (p : Option Byte) : sameExcept [.pending] s (s.setPending p) := by
  intro g hg
  have h := sameGroup_refl g s
  cases g with
  | pending => simp at hg
  | _ => exact h

end sameExcept

/-- The store of a data write in Display mode, the offset and the counter (43_data_write R131). -/
theorem sameExcept_writeDisplay (v : Byte) (l : Fin 2) (c : Fin 40) (s : State) :
    sameExcept [.dd, .scroll, .ac] s (writeDisplay v l c s) :=
  ((sameExcept.setDd s _).trans (sameExcept.setScroll _ _)).trans (sameExcept.setAc _ _)

/-- The store of a data write in CharGen mode and the counter (43_data_write R132). -/
theorem sameExcept_writeCharGen (v : Byte) (k r : Fin 8) (s : State) :
    sameExcept [.cg, .ac] s (writeCharGen v k r s) :=
  (sameExcept.setCg s _).trans (sameExcept.setAc _ _)

/-! ### The frame rule (42_commands R122) -/

/-- The groups marked in a column of the write matrix (10_state R24). -/
def writtenGroups : Mnemonic → List FieldGroup
  | .NOP => []
  | .CLEAR => [.dd, .ac, .scroll]
  | .HOME => [.ac, .scroll]
  | .ENTRY => [.entry]
  | .DISPCTL => [.display]
  | .CURSHIFT => [.ac]
  | .DISPSHIFT => [.scroll]
  | .FUNCSET => [.function, .pending]
  | .SETCG => [.ac]
  | .SETDD => [.ac]
  | .WRITE => [.dd, .cg, .ac, .scroll]

theorem mayWrite_eq_false_iff {g : FieldGroup} {m : Mnemonic} : mayWrite g m = false ↔ g ∉ writtenGroups m := by
  cases m <;> cases g <;> decide

/-- An instruction's updates stay within its column of the write matrix. -/
theorem exec_sameExcept {i : Instr} {s t : State} (h : exec i s = .next t) : sameExcept (writtenGroups i.mnemonic) s t := by
  rcases exec_next_cases h with
    ⟨rfl, rfl⟩ | ⟨rfl, rfl⟩ | ⟨rfl, rfl⟩ | ⟨d, sh, rfl, rfl⟩ | ⟨d, c, b, rfl, rfl⟩ | ⟨d, rfl, rfl⟩ | ⟨d, rfl, rfl⟩ |
    ⟨m, n, f, rfl, rfl⟩ | ⟨k, r, rfl, rfl⟩ | ⟨a, l, c, rfl, -, rfl⟩ | ⟨v, l, c, rfl, -, rfl⟩ | ⟨v, k, r, rfl, -, rfl⟩
  · exact sameExcept.refl _ _
  · exact ((sameExcept.setDd s []).trans (sameExcept.setAc _ _)).trans (sameExcept.setScroll _ _)
  · exact (sameExcept.setAc s _).trans (sameExcept.setScroll _ _)
  · exact sameExcept.setEntry s d sh
  · exact sameExcept.setDisplay s d c b
  · exact sameExcept.setAc s _
  · exact sameExcept.setScroll s _
  · exact (sameExcept.setFunction s m n f).trans (sameExcept.setPending _ none)
  · exact sameExcept.setAc s _
  · exact sameExcept.setAc s _
  · exact (sameExcept_writeDisplay v l c s).mono (gs' := writtenGroups .WRITE) (by decide)
  · exact (sameExcept_writeCharGen v k r s).mono (gs' := writtenGroups .WRITE) (by decide)

/-- Settles O50: a group the matrix does not mark is none of those the instruction's updates reach. -/
theorem instructionsWriteOnlyTheirState : Obligations.InstructionsWriteOnlyTheirState :=
  fun _ _ _ g h hg => exec_sameExcept h g (mayWrite_eq_false_iff.1 hg)

/-! ### CLEAR as 80 stores (42_commands R111, 20_memory R50) -/

theorem memErase_eq_filter {w : Nat} (m : Memory w) (a : Nat) : memErase m a = m.filter (fun e => e.1 ≠ a) := by
  induction m with
  | nil => rfl
  | cons e rest ih =>
    obtain ⟨b, u⟩ := e
    by_cases h : a = b
    · subst h; simpa [memErase] using ih
    · simp [memErase, ih, h, Ne.symm h]

/-- Storing the space code takes the cell off the list (log 8). -/
theorem memWriteDd_space (l : Fin 2) (c : Fin 40) (s : State) :
    memWriteDd l c Config.space s = s.setDd (s.dd.filter (fun e => e.1 ≠ ddKey l c)) := by
  rw [← memErase_eq_filter]
  rfl

/-- Storing the space code in a list of cells leaves the entries of the other cells. -/
theorem foldl_memWriteDd_space (cells : List (Fin 2 × Fin 40)) (s : State) :
    cells.foldl (fun u lc => memWriteDd lc.1 lc.2 Config.space u) s =
      s.setDd (s.dd.filter (fun e => cells.all (fun lc => e.1 ≠ ddKey lc.1 lc.2))) := by
  induction cells generalizing s with
  | nil => simp [State.setDd]
  | cons lc rest ih =>
    rw [List.foldl_cons, ih, memWriteDd_space]
    simp [State.setDd, List.filter_filter, Bool.and_comm]

theorem mem_displayCells (l : Fin 2) (c : Fin 40) : (l, c) ∈ displayCells := by
  simp [displayCells]

theorem length_displayCells : displayCells.length = 80 := by
  simp [displayCells]

/-- Every mapped address is a cell's key (20_memory R41, R42). -/
theorem exists_ddKey_of_ddMapped {a : Nat} (h : ddMapped a = true) : ∃ l c, ddKey l c = a := by
  simp only [ddMapped, Bool.or_eq_true, Bool.and_eq_true, decide_eq_true_eq] at h
  rcases h with h | ⟨h, h'⟩
  · exact ⟨0, ⟨a, h⟩, by simp [ddKey]⟩
  · exact ⟨1, ⟨a - 0x40, by omega⟩, by simp only [ddKey, Fin.val_one]; omega⟩

/-- A canonical display memory lists cells alone. -/
theorem ddMapped_of_mem {s : State} (hs : ddWf s = true) {e : Nat × Byte} (he : e ∈ s.dd) : ddMapped e.1 = true := by
  simp only [ddWf, Memory.wf, Bool.and_eq_true, List.all_eq_true] at hs
  exact (hs.2 e he).1

/-- Settles O28: every listed address is one of the 80 cells, and each store takes its cell off the list. -/
theorem clearIsEightyStores : Obligations.ClearIsEightyStores := by
  intro s hs
  refine ⟨length_displayCells, ?_⟩
  have hnone : s.dd.filter (fun e => displayCells.all (fun lc => e.1 ≠ ddKey lc.1 lc.2)) = [] := by
    rw [List.filter_eq_nil_iff]
    intro e he hall
    obtain ⟨l, c, hkey⟩ := exists_ddKey_of_ddMapped (ddMapped_of_mem hs he)
    exact of_decide_eq_true (List.all_eq_true.1 hall (l, c) (mem_displayCells l c)) hkey.symm
  have hfold := foldl_memWriteDd_space displayCells s
  rw [hnone] at hfold
  exact hfold.symm

/-! ### NOP, CLEAR, HOME (42_commands R110 to R112) -/

theorem decodeCommand_eq_nop_iff (byte : Byte) : decodeCommand byte = .nop ↔ byte = 0 := by
  revert byte; decide

/-- Settles O26: a nibble pair that assembles to 0 is dispatched as NOP after the nibble is consumed. -/
theorem nopChangesNothing : Obligations.NopChangesNothing := by
  refine ⟨decodeCommand_eq_nop_iff, exec_nop, fun s h db hm hp hbyte => ?_⟩
  have hzero : assembleByte h db = 0 := hbyte
  have hnop : decodeWord (busWord 0 0) = .nop := decodeWord_nop
  rw [strobe_four_some hm hp, hzero, hnop, exec_nop]
  rfl

/-- Settles O27: the state of CLEAR, read field by field; the frame is its column of the write matrix. -/
theorem clearResetsDisplayCounterAndOffset : Obligations.ClearResetsDisplayCounterAndOffset :=
  ⟨decodeWord_clear, fun s => ⟨_, exec_clear s, fun l c => memRead_clearDd_dd l c s, rfl, rfl, exec_sameExcept (exec_clear s)⟩⟩

/-- Settles O29: both values of HOME's ignored bit; memory is outside HOME's column. -/
theorem homeResetsCounterAndOffset : Obligations.HomeResetsCounterAndOffset :=
  ⟨decodeWord_home 0, decodeWord_home 1, fun s => ⟨_, exec_home s, rfl, rfl, exec_sameExcept (exec_home s)⟩⟩

/-! ### The control fields (42_commands R113, R114, R117) -/

/-- Settles O30: the two fields of ENTRY's word, and its column of the write matrix. -/
theorem entrySetsDirectionAndAutoShift : Obligations.EntrySetsDirectionAndAutoShift :=
  ⟨decodeWord_entry, fun d sh s => ⟨_, exec_entry d sh s, rfl, rfl, exec_sameExcept (exec_entry d sh s)⟩⟩

/-- Settles O31: the three fields of DISPCTL's word, and its column. -/
theorem dispctlSetsTheThreeFlags : Obligations.DispctlSetsTheThreeFlags :=
  ⟨decodeWord_dispctl, fun d c b s => ⟨_, exec_dispctl d c b s, rfl, rfl, rfl, exec_sameExcept (exec_dispctl d c b s)⟩⟩

/-- Settles O38: the three fields of FUNCSET's word, and its column, `pending` with it. -/
theorem funcsetSetsWidthAndRecordedBits : Obligations.FuncsetSetsWidthAndRecordedBits :=
  ⟨decodeWord_funcset,
    fun m n f s => ⟨_, exec_funcset m n f s, rfl, rfl, rfl, rfl, exec_sameExcept (exec_funcset m n f s)⟩⟩

/-! ### The shifts (42_commands R115, R116) -/

/-- Settles O32: CURSHIFT is `ShiftAC` in its own direction, in either variant. -/
theorem curshiftMovesTheCounter : Obligations.CurshiftMovesTheCounter :=
  ⟨decodeWord_curshift, fun d s => ⟨_, exec_curshift d s, rfl, exec_sameExcept (exec_curshift d s)⟩⟩

/-- The offset moves modulo 40 against the direction (41_address_counter R105). -/
theorem val_displayShift_left (off : Fin 40) : (displayShift .left off).val = (off.val + 1) % 40 :=
  Fin.val_add off 1

theorem val_displayShift_right (off : Fin 40) : (displayShift .right off).val = (off.val + 39) % 40 := by
  simp only [displayShift, Fin.val_sub]
  omega

/-- A shift to the left draws every column one place further left (41_address_counter R105, 44_snapshot R144). -/
theorem windowPosition_displayShift_left (off c : Fin 40) :
    windowPosition (displayShift .left off) c = windowPosition off c - 1 :=
  sub_add_eq_sub_sub c off 1

theorem windowPosition_displayShift_right (off c : Fin 40) :
    windowPosition (displayShift .right off) c = windowPosition off c + 1 :=
  (sub_sub_eq_add_sub c off 1).trans (add_sub_right_comm c 1 off)

/-- Forty shifts are a whole line. -/
theorem iterate_displayShift_forty (d : Direction) (off : Fin 40) : (displayShift d)^[40] off = off := by
  have hline : ∀ x : Fin 40, 40 • x = 0 := by decide
  cases d with
  | left =>
    have h : displayShift .left = (· + 1) := rfl
    rw [h, add_right_iterate_apply, hline, add_zero]
  | right =>
    have h : displayShift .right = (· + -1) := funext fun x => sub_eq_add_neg x 1
    rw [h, add_right_iterate_apply, hline, add_zero]

/-- Settles O37: the offset and the window positions of one shift in each direction, and forty shifts are a whole line. -/
theorem dispshiftMovesTheWindow : Obligations.DispshiftMovesTheWindow :=
  ⟨decodeWord_dispshift,
    fun s => ⟨_, exec_dispshift .left s, val_displayShift_left s.scrollOffset,
      windowPosition_displayShift_left s.scrollOffset, exec_sameExcept (exec_dispshift .left s)⟩,
    fun s => ⟨_, exec_dispshift .right s, val_displayShift_right s.scrollOffset,
      windowPosition_displayShift_right s.scrollOffset, exec_sameExcept (exec_dispshift .right s)⟩,
    iterate_displayShift_forty⟩

/-! ### SETCG (42_commands R118) -/

/-- From CharGen mode only SETDD, CLEAR and HOME lead to Display mode: the others keep the counter, its variant, or set
the CharGen one. -/
theorem mnemonic_of_exec_isDisplay {i : Instr} {s t : State} (hs : isDisplay s.ac = false) (h : exec i s = .next t)
    (ht : isDisplay t.ac = true) : i.mnemonic = .SETDD ∨ i.mnemonic = .CLEAR ∨ i.mnemonic = .HOME := by
  have changed : isDisplay t.ac ≠ isDisplay s.ac := by simp [hs, ht]
  cases i with
  | setdd a => exact .inl rfl
  | clear => exact .inr (.inl rfl)
  | home => exact .inr (.inr rfl)
  | setcg k r => cases h; cases ht
  | curshift d => cases h; exact absurd (isDisplay_shiftAC d s.ac) changed
  | write v => exact absurd ((congrArg isDisplay (exec_write_ac h)).trans (isDisplay_shiftAC _ s.ac)) changed
  | nop | entry | dispctl | dispshift | funcset =>
    have kept : t.ac = s.ac := instructionsWriteOnlyTheirState _ s t .ac h rfl
    exact absurd (congrArg isDisplay kept) changed

/-- A data write with the counter in CharGen mode completes, and reads as before everywhere but in the addressed row. -/
theorem exec_write_charGen_row {s : State} {k r : Fin 8} (hac : s.ac = .charGen k r) (v : Byte) :
    ∃ t, exec (.write v) s = .next t ∧ t.scrollOffset = s.scrollOffset ∧ ∀ b, b ≠ .cg k r → memRead b t = memRead b s :=
  ⟨_, exec_write_charGen hac v, rfl, fun b hb => (memRead_writeCharGen v k r s b).trans (if_neg hb)⟩

/-- Settles O39: the 64 words, the counter, and what a write and any other instruction do from there. -/
theorem setcgAddressesARow : Obligations.SetcgAddressesARow :=
  ⟨decodeWord_setcg, fun k r s =>
    ⟨_, exec_setcg k r s, rfl, exec_sameExcept (exec_setcg k r s), exec_write_charGen_row rfl,
      fun _ _ => mnemonic_of_exec_isDisplay rfl⟩⟩

/-! ### SETDD (42_commands R119, R120) -/

/-- SETDD to the key of a cell makes the counter address the cell. -/
theorem exec_setdd_ddKey {a : BitVec 7} {l : Fin 2} {c : Fin 40} (ha : a.toNat = ddKey l c) (s : State) :
    exec (.setdd a) s = .next (s.setAc (.display l c)) :=
  exec_setdd_cell (ddCell_eq_some_iff.2 ha) s

/-- Settles O40: the cell of each range by its key. -/
theorem setddAddressesACell : Obligations.SetddAddressesACell := by
  refine ⟨decodeWord_setdd, fun a s h => ?_, fun a s h h' => ?_⟩
  · have hkey : a.toNat = ddKey 0 ⟨a.toNat, by omega⟩ := by simp [ddKey]
    have hex := exec_setdd_ddKey hkey s
    exact ⟨_, _, hex, rfl, rfl, exec_sameExcept hex⟩
  · have hkey : a.toNat = ddKey 1 ⟨a.toNat - 0x40, by omega⟩ := by simp only [ddKey, Fin.val_one]; omega
    have hex := exec_setdd_ddKey hkey s
    exact ⟨_, _, hex, rfl, rfl, exec_sameExcept hex⟩

/-- SETDD is refused exactly when the address names no cell. -/
theorem exec_setdd_eq_refused_iff {a : BitVec 7} {s : State} :
    exec (.setdd a) s = .refused .setDDOutOfRange ↔ ddCell a = none := by
  refine ⟨fun h => ?_, fun h => exec_setdd_hole h s⟩
  obtain ⟨b, hb, hnone, -⟩ := exec_refused h
  cases hb
  exact hnone

/-- Settles O41: the two holes of the address map; 7 bits end at 0x7F. -/
theorem setddHoleIsRefused : Obligations.SetddHoleIsRefused := by
  intro a s
  have hlt := a.isLt
  rw [exec_setdd_eq_refused_iff, ddCell_eq_none_iff]
  omega

end Sys2Proof.Machine

/-! # The data write: what it stores, moves and leaves, and eighty of them (43_data_write) -/

namespace Sys2Proof.Machine

/-! ### One write, in either variant of the counter (43_data_write R130) -/

theorem exists_exec_write (v : Byte) (s : State) : ∃ t, exec (.write v) s = .next t := by
  cases hac : s.ac with
  | display l c => exact ⟨_, exec_write_display hac v⟩
  | charGen k r => exact ⟨_, exec_write_charGen hac v⟩

/-- A write changes no byte but the one the counter addressed before it moved. -/
theorem exec_write_memRead_of_ne {v : Byte} {s t : State} (h : exec (.write v) s = .next t) {b : Addr}
    (hb : b ≠ acAddr s.ac) : memRead b t = memRead b s := by
  cases hac : s.ac with
  | display l c =>
    rw [hac] at hb
    cases (exec_write_display hac v).symm.trans h
    exact (memRead_writeDisplay v l c s b).trans (if_neg hb)
  | charGen k r =>
    rw [hac] at hb
    cases (exec_write_charGen hac v).symm.trans h
    exact (memRead_writeCharGen v k r s b).trans (if_neg hb)

/-- In Display mode the whole byte is stored (43_data_write R131). -/
theorem exec_write_memRead_display {v : Byte} {s t : State} (hd : isDisplay s.ac = true) (h : exec (.write v) s = .next t) :
    memRead (acAddr s.ac) t = v := by
  cases hac : s.ac with
  | display l c =>
    cases (exec_write_display hac v).symm.trans h
    exact (memRead_writeDisplay v l c s _).trans (if_pos rfl)
  | charGen k r => rw [hac] at hd; cases hd

/-- The mask of a CGRAM store (decision D16, log 17). -/
theorem setWidth_extractLsb'_five (v : Byte) : (v.extractLsb' 0 5).setWidth 8 = v &&& 0x1F := by
  have hmask : (v &&& 0x1F).toNat = v.toNat % 32 :=
    (BitVec.toNat_and v 0x1F).trans (Nat.and_two_pow_sub_one_eq_mod v.toNat 5)
  apply BitVec.eq_of_toNat_eq
  rw [hmask, BitVec.toNat_setWidth, BitVec.extractLsb'_toNat, Nat.shiftRight_zero]
  omega

/-- In CharGen mode the low five bits are stored (43_data_write R132). -/
theorem exec_write_memRead_charGen {v : Byte} {s t : State} (hd : isDisplay s.ac = false) (h : exec (.write v) s = .next t) :
    memRead (acAddr s.ac) t = v &&& 0x1F := by
  cases hac : s.ac with
  | display l c => rw [hac] at hd; cases hd
  | charGen k r =>
    cases (exec_write_charGen hac v).symm.trans h
    rw [← setWidth_extractLsb'_five]
    exact (memRead_writeCharGen v k r s _).trans (if_pos rfl)

/-! ### The offset (43_data_write R131; decision D9, log 12) -/

theorem autoShifted_of_autoShift_false {s : State} (h : s.autoShift = false) : autoShifted s = s.scrollOffset := by
  simp [autoShifted, h]

theorem autoShifted_of_autoShift {s : State} (h : s.autoShift = true) :
    autoShifted s = displayShift (opposite (moveDir s.textDirection)) s.scrollOffset := by
  simp [autoShifted, h]

@[simp] theorem writeDisplay_scrollOffset (v : Byte) (l : Fin 2) (c : Fin 40) (s : State) :
    (writeDisplay v l c s).scrollOffset = autoShifted s := rfl

/-- Settles O44: the state of WRITE in Display mode, read byte by byte and field by field. -/
theorem writeInDisplayModeStoresAndMoves : Obligations.WriteInDisplayModeStoresAndMoves := by
  intro s v l c hac
  have hw := exec_write_display hac v
  refine ⟨_, hw, ?_, by rw [writeDisplay_ac, hac], fun h => ?_, fun h hdir => ?_, fun h hdir => ?_, ?_⟩
  · rintro _ rfl
    exact ⟨exec_write_memRead_display (by rw [hac]; rfl) hw, fun b hb => exec_write_memRead_of_ne hw hb⟩
  · exact autoShifted_of_autoShift_false h
  · rw [writeDisplay_scrollOffset, autoShifted_of_autoShift h, hdir]
    exact val_displayShift_left s.scrollOffset
  · rw [writeDisplay_scrollOffset, autoShifted_of_autoShift h, hdir]
    exact val_displayShift_right s.scrollOffset
  · exact (sameExcept_writeDisplay v l c s).mono (by decide)

/-- Settles O45: the masked store, the counter, and the frame, which the offset and `auto_shift` are in. -/
theorem writeInCharGenModeStoresFiveBitsAndMoves : Obligations.WriteInCharGenModeStoresFiveBitsAndMoves := by
  intro s v k r hac
  have hw := exec_write_charGen hac v
  refine ⟨_, hw, ?_, by rw [exec_write_ac hw, hac], sameExcept_writeCharGen v k r s⟩
  rintro _ rfl
  exact ⟨exec_write_memRead_charGen (by rw [hac]; rfl) hw, fun b hb => exec_write_memRead_of_ne hw hb⟩

/-! ### What a write leaves (43_data_write R134) -/

theorem exec_write_isDisplay {v : Byte} {s t : State} (h : exec (.write v) s = .next t) : isDisplay t.ac = isDisplay s.ac := by
  rw [exec_write_ac h, isDisplay_shiftAC]

/-- The counter addresses an element of the memory its variant names. -/
theorem cg_ne_acAddr {a : AC} (h : isDisplay a = true) (k r : Fin 8) : Addr.cg k r ≠ acAddr a := by
  cases a with
  | display l c => simp [acAddr]
  | charGen k' r' => cases h

theorem dd_ne_acAddr {a : AC} (h : isDisplay a = false) (l : Fin 2) (c : Fin 40) : Addr.dd l c ≠ acAddr a := by
  cases a with
  | display l' c' => cases h
  | charGen k r => simp [acAddr]

/-- A strobe that delivers a word leaves nothing pending. -/
theorem strobe_pending_none {s t : State} {rs : Bit} {db : Byte}
    (hs : (s.busMode = .eight ∧ s.pending = none) ∨ (s.busMode = .four ∧ s.pending ≠ none))
    (h : strobe rs db s = .next t) : t.pending = none := by
  obtain ⟨hm, hp⟩ | ⟨hm, hp⟩ := hs
  · exact exec_pending_none hp ((strobe_eight hm rs db).symm.trans h)
  · obtain ⟨nibble, hp⟩ := Option.ne_none_iff_exists'.1 hp
    exact exec_pending_none rfl ((strobe_four_some hm hp rs db).symm.trans h)

/-- Settles O46: the control fields are outside WRITE's column of the write matrix, and the store is in the memory of the
counter's variant. -/
theorem writeLeavesControlFieldsAndOtherMemory : Obligations.WriteLeavesControlFieldsAndOtherMemory := by
  refine ⟨fun s v t h => ?_, fun s db t => strobe_pending_none⟩
  obtain ⟨hdir, hshift⟩ : sameGroup .entry s t := instructionsWriteOnlyTheirState _ s t .entry h rfl
  obtain ⟨hon, hcursor, hblink⟩ : sameGroup .display s t := instructionsWriteOnlyTheirState _ s t .display h rfl
  obtain ⟨hmode, hlines, hfont⟩ : sameGroup .function s t := instructionsWriteOnlyTheirState _ s t .function h rfl
  exact ⟨hdir, hshift, hon, hcursor, hblink, hmode, hlines, hfont, exec_write_isDisplay h,
    fun hd k r => exec_write_memRead_of_ne h (cg_ne_acAddr hd k r),
    fun hd l c => exec_write_memRead_of_ne h (dd_ne_acAddr hd l c)⟩

/-! ### The cursor's window position under auto-shift (43_data_write R131; decision D9, log 12) -/

/-- A move of the counter takes its column round the line as the opposite display shift takes the offset, whether or not the
line flips. -/
theorem shiftAC_display_column (d : Direction) (l : Fin 2) (c : Fin 40) :
    ∃ l', shiftAC d (.display l c) = .display l' (displayShift (opposite d) c) := by
  cases d with
  | right =>
    by_cases hc : c = 39
    · subst hc; exact ⟨1 - l, rfl⟩
    · exact ⟨l, if_neg hc⟩
  | left =>
    by_cases hc : c = 0
    · subst hc; exact ⟨1 - l, rfl⟩
    · exact ⟨l, if_neg hc⟩

/-- Shifting offset and column alike keeps the window position. -/
theorem windowPosition_displayShift_displayShift (d : Direction) (off c : Fin 40) :
    windowPosition (displayShift d off) (displayShift d c) = windowPosition off c := by
  cases d with
  | left => exact add_sub_add_right_eq_sub c off 1
  | right => exact sub_sub_sub_cancel_right c off 1

/-- Settles O47: offset and column move by the same display shift. -/
theorem autoShiftKeepsTheCursorInPlace : Obligations.AutoShiftKeepsTheCursorInPlace := by
  intro s v l c hac h
  obtain ⟨l', hmove⟩ := shiftAC_display_column (moveDir s.textDirection) l c
  refine ⟨_, l', _, exec_write_display hac v, by rw [writeDisplay_ac, hac, hmove], ?_⟩
  rw [writeDisplay_scrollOffset, autoShifted_of_autoShift h]
  exact windowPosition_displayShift_displayShift _ _ _

/-! ### The order of a write's effects (43_data_write R133) -/

/-- Effects any two of which commute give the same state in every order. -/
theorem foldl_effects_eq_of_perm {effects order : List (State → State)} (hperm : effects.Perm order)
    (hcomm : ∀ x ∈ order, ∀ y ∈ order, ∀ u, y (x u) = x (y u)) (s : State) :
    effects.foldl (fun u effect => effect u) s = order.foldl (fun u effect => effect u) s :=
  (hperm.symm.foldl_eq' hcomm s).symm

/-- Settles O49: no effect reads what another writes, so any two of them commute from any state, and every order gives the
state of the order in which WRITE is defined. -/
theorem writeEffectsCommute : Obligations.WriteEffectsCommute := by
  constructor
  · intro s v l c hac effects hperm
    rw [exec_write_display hac, foldl_effects_eq_of_perm hperm]
    · rfl
    · simp only [List.mem_cons, List.not_mem_nil, or_false]
      rintro _ (rfl | rfl | rfl) _ (rfl | rfl | rfl) u <;> rfl
  · intro s v k r hac effects hperm
    rw [exec_write_charGen hac, foldl_effects_eq_of_perm hperm]
    · rfl
    · simp only [List.mem_cons, List.not_mem_nil, or_false]
      rintro _ (rfl | rfl) _ (rfl | rfl) u <;> rfl

/-! ### The counter's walk visits every place of its ring once (20_memory R46, 41_address_counter R104) -/

/-- As many moves in the opposite direction lead back. -/
theorem iterate_shiftAC_opposite (d : Direction) (n : Nat) (a : AC) :
    (shiftAC (opposite d))^[n] ((shiftAC d)^[n] a) = a :=
  Function.LeftInverse.iterate (shiftAC_opposite_shiftAC d) n a

/-- Fewer moves than a whole ring, and at least one, do not return. -/
theorem iterate_shiftAC_ne_self (d : Direction) {n : Nat} {a : AC} (hpos : 0 < n) (hlt : n < acRing a) :
    (shiftAC d)^[n] a ≠ a := by
  have right_ne : (shiftAC .right)^[n] a ≠ a := by
    intro h
    have hidx := acIndex_iterate_shiftAC_right n a
    have hplace := acIndex_lt_acRing a
    rw [h] at hidx
    obtain hsmall | hbig := Nat.lt_or_ge (acIndex a + n) (acRing a)
    · rw [Nat.mod_eq_of_lt hsmall] at hidx
      omega
    · rw [Nat.mod_eq_sub_mod hbig, Nat.mod_eq_of_lt (by omega)] at hidx
      omega
  cases d with
  | right => exact right_ne
  | left =>
    intro h
    have hback := iterate_shiftAC_opposite .left n a
    rw [h] at hback
    exact right_ne hback

/-- From any place every place of the variant is less than a ring of moves away. -/
theorem exists_iterate_shiftAC_eq (d : Direction) {a b : AC} (hv : isDisplay a = isDisplay b) :
    ∃ n, n < acRing a ∧ (shiftAC d)^[n] a = b := by
  have right_reaches {a b : AC} (hv : isDisplay a = isDisplay b) : ∃ n, n < acRing a ∧ (shiftAC .right)^[n] a = b := by
    have hring : acRing b = acRing a := by simp only [acRing_eq_ite, hv]
    have ha := acIndex_lt_acRing a
    have hb := acIndex_lt_acRing b
    refine ⟨(acIndex b + (acRing a - acIndex a)) % acRing a, Nat.mod_lt _ (by omega), ?_⟩
    refine eq_of_acIndex_eq ((isDisplay_iterate_shiftAC _ _ a).trans hv) ?_
    rw [acIndex_iterate_shiftAC_right, Nat.add_mod_mod]
    have hsum : acIndex a + (acIndex b + (acRing a - acIndex a)) = acIndex b + acRing b := by omega
    rw [hsum, ← hring, acIndex_add_acRing_mod]
  cases d with
  | right => exact right_reaches hv
  | left =>
    obtain ⟨n, hn, h⟩ := right_reaches hv.symm
    refine ⟨n, by simpa only [acRing_eq_ite, hv] using hn, ?_⟩
    rw [← h]
    exact iterate_shiftAC_opposite .right n b

theorem acAddr_injective : Function.Injective acAddr := by
  intro a b h
  cases a with
  | display l c =>
    cases b with
    | display l' c' => simpa [acAddr] using h
    | charGen k r => cases h
  | charGen k r =>
    cases b with
    | display l c => cases h
    | charGen k' r' => simpa [acAddr] using h

/-! ### A row of writes in Display mode without auto-shift (43_data_write R131, corner case (e)) -/

/-- A group that happens to have the same value need not be named in the frame. -/
theorem sameExcept.of_cons {g : FieldGroup} {gs : List FieldGroup} {s t : State} (h : sameExcept (g :: gs) s t)
    (hg : sameGroup g s t) : sameExcept gs s t := by
  intro g' hg'
  by_cases heq : g' = g
  · rw [heq]; exact hg
  · exact h g' (by simp [heq, hg'])

theorem execAll_cons_eq_next {i : Instr} {rest : List Instr} {s t : State} (h : execAll (i :: rest) s = .next t) :
    ∃ u, exec i s = .next u ∧ execAll rest u = .next t := by
  cases hi : exec i s with
  | next u => exact ⟨u, rfl, (execAll_next hi rest).symm.trans h⟩
  | fault f => cases f
  | refused r => simp [execAll, hi] at h

theorem exists_execAll_write (bs : List Byte) (s : State) : ∃ t, execAll (bs.map Instr.write) s = .next t := by
  induction bs generalizing s with
  | nil => exact ⟨s, rfl⟩
  | cons b bs ih =>
    obtain ⟨u, hu⟩ := exists_exec_write b s
    rw [List.map_cons, execAll_next hu]
    exact ih u

/-- Without auto-shift the offset stays, so a write changes display memory and the counter alone. -/
theorem exec_write_sameExcept_of_autoShift_false {v : Byte} {s t : State} (hd : isDisplay s.ac = true) (hs : s.autoShift = false)
    (h : exec (.write v) s = .next t) : sameExcept [.ac, .dd] s t := by
  cases hac : s.ac with
  | display l c =>
    cases (exec_write_display hac v).symm.trans h
    have hframe : sameExcept [.scroll, .ac, .dd] s (writeDisplay v l c s) := (sameExcept_writeDisplay v l c s).mono (by decide)
    exact hframe.of_cons (autoShifted_of_autoShift_false hs)
  | charGen k r => rw [hac] at hd; cases hd

theorem exec_write_entry {v : Byte} {s t : State} (h : exec (.write v) s = .next t) :
    t.textDirection = s.textDirection ∧ t.autoShift = s.autoShift :=
  instructionsWriteOnlyTheirState _ s t .entry h rfl

/-- The walk of the next write is the rest of this one's. -/
theorem exec_write_walk {v : Byte} {s t : State} (h : exec (.write v) s = .next t) (n : Nat) :
    (shiftAC (moveDir t.textDirection))^[n] t.ac = (shiftAC (moveDir s.textDirection))^[n + 1] s.ac := by
  rw [(exec_write_entry h).1, exec_write_ac h, Function.iterate_succ_apply]

/-- Writes move the counter one place each. -/
theorem execAll_write_ac {bs : List Byte} {s t : State} (h : execAll (bs.map Instr.write) s = .next t) :
    t.ac = (shiftAC (moveDir s.textDirection))^[bs.length] s.ac := by
  induction bs generalizing s with
  | nil => cases h; rfl
  | cons b bs ih =>
    obtain ⟨u, hu, hrest⟩ := execAll_cons_eq_next h
    rw [ih hrest, exec_write_walk hu, List.length_cons]

theorem execAll_write_sameExcept {bs : List Byte} {s t : State} (hd : isDisplay s.ac = true) (hs : s.autoShift = false)
    (h : execAll (bs.map Instr.write) s = .next t) : sameExcept [.ac, .dd] s t := by
  induction bs generalizing s with
  | nil => cases h; exact sameExcept.refl _ _
  | cons b bs ih =>
    obtain ⟨u, hu, hrest⟩ := execAll_cons_eq_next h
    have hfirst := exec_write_sameExcept_of_autoShift_false hd hs hu
    have hlater := ih ((exec_write_isDisplay hu).trans hd) ((exec_write_entry hu).2.trans hs) hrest
    exact (hfirst.trans hlater).mono (by decide)

/-- A byte at none of the places the writes start from reads as before. -/
theorem execAll_write_memRead_of_ne {bs : List Byte} {s t : State} {a : Addr} (h : execAll (bs.map Instr.write) s = .next t)
    (ha : ∀ i, i < bs.length → a ≠ acAddr ((shiftAC (moveDir s.textDirection))^[i] s.ac)) : memRead a t = memRead a s := by
  induction bs generalizing s with
  | nil => cases h; rfl
  | cons b bs ih =>
    obtain ⟨u, hu, hrest⟩ := execAll_cons_eq_next h
    have hlater : memRead a t = memRead a u := by
      refine ih hrest fun i hi => ?_
      rw [exec_write_walk hu]
      exact ha (i + 1) (Nat.succ_lt_succ hi)
    exact hlater.trans (exec_write_memRead_of_ne hu (ha 0 (Nat.succ_pos _)))

/-- At most a ring of writes leaves each byte at its place of the walk: the later writes store elsewhere. -/
theorem execAll_write_memRead {bs : List Byte} {s t : State} (hd : isDisplay s.ac = true) (hlen : bs.length ≤ 80)
    (h : execAll (bs.map Instr.write) s = .next t) (i : Nat) (b : Byte) (hb : bs[i]? = some b) :
    memRead (acAddr ((shiftAC (moveDir s.textDirection))^[i] s.ac)) t = b := by
  induction bs generalizing s i with
  | nil => simp at hb
  | cons b' bs ih =>
    rw [List.length_cons] at hlen
    obtain ⟨u, hu, hrest⟩ := execAll_cons_eq_next h
    cases i with
    | zero =>
      obtain rfl : b' = b := by simpa using hb
      rw [Function.iterate_zero_apply, execAll_write_memRead_of_ne hrest, exec_write_memRead_display hd hu]
      intro n hn heq
      rw [exec_write_walk hu] at heq
      have hring : acRing s.ac = 80 := by rw [acRing_eq_ite, if_pos hd]
      exact iterate_shiftAC_ne_self _ (Nat.succ_pos n) (by omega) (acAddr_injective heq).symm
    | succ i =>
      rw [← exec_write_walk hu]
      exact ih ((exec_write_isDisplay hu).trans hd) (by omega) hrest i (by simpa using hb)

/-- Settles O48: the walk of eighty writes visits every cell once and returns, so each byte stays where it was stored. -/
theorem eightyWritesFillTheDisplay : Obligations.EightyWritesFillTheDisplay := by
  intro s l c bs hac hs hlen
  have hd : isDisplay s.ac = true := by rw [hac]; rfl
  have hring : acRing s.ac = 80 := by rw [hac]; rfl
  obtain ⟨t, ht⟩ := exists_execAll_write bs s
  have hreturn : t.ac = s.ac := by
    rw [execAll_write_ac ht, hlen, ← hring]
    exact (counterMovesAreInverseAndPeriodic s.ac _).2
  refine ⟨t, ht, (execAll_write_sameExcept hd hs ht).of_cons hreturn, execAll_write_memRead hd hlen.le ht, fun l' c' => ?_⟩
  rw [← hring]
  exact exists_iterate_shiftAC_eq _ hd

end Sys2Proof.Machine

/-! # The snapshot port: what a snapshot shows, the glyph of a code, the visible window (44_snapshot) -/

namespace Sys2Proof.Machine

/-! ### The elements of a snapshot (44_snapshot R140, R141) -/

@[simp] theorem snapshot_lines_getElem (s : State) (l : Fin 2) (c : Fin 40) :
    ((snapshot s).lines[l.val])[c.val] = memRead (.dd l c) s := by
  simp [snapshot]

@[simp] theorem snapshot_glyphMemory_getElem (s : State) (k r : Fin 8) :
    ((snapshot s).glyphMemory[k.val])[r.val] = memRead (.cg k r) s := by
  simp [snapshot]

@[simp] theorem snapshot_glyphRom_getElem (s : State) (g : Fin 96) (r : Fin 8) :
    ((snapshot s).glyphRom[g.val])[r.val] = Config.cgRom g r := by
  simp [snapshot, memRead]

/-- Bits [7:5] of a CGRAM row are zero (decision D16, log 17). -/
theorem memRead_cg_toNat_lt (k r : Fin 8) (s : State) : (memRead (.cg k r) s).toNat < 32 := by
  have hrow : (memRead (.cg k r) s).toNat = (cgRow s k r).toNat := BitVec.toNat_setWidth_of_le (by decide)
  rw [hrow]
  exact (cgRow s k r).isLt

/-- Settles O53: each element is one `MemRead` or one field of the state. -/
theorem snapshotShowsMemoryOffsetAndFlags : Obligations.SnapshotShowsMemoryOffsetAndFlags := by
  intro s
  refine ⟨snapshot_lines_getElem s, fun k r => ⟨snapshot_glyphMemory_getElem s k r, ?_⟩, snapshot_glyphRom_getElem s,
    rfl, rfl, rfl, rfl⟩
  rw [snapshot_glyphMemory_getElem]
  exact memRead_cg_toNat_lt k r s

/-- Settles O54: the four groups are all a snapshot reads of the state; the ROM is the same in every state. -/
theorem snapshotHidesTheRest : Obligations.SnapshotHidesTheRest := by
  intro s t hdd hcg hscroll hdisplay
  have hlines : ∀ l c, memRead (.dd l c) t = memRead (.dd l c) s := hdd
  have hrows : ∀ k r, memRead (.cg k r) t = memRead (.cg k r) s := hcg
  have hoff : t.scrollOffset = s.scrollOffset := hscroll
  obtain ⟨hon, hcursor, hblink⟩ := hdisplay
  have hrom : ∀ g r, memRead (.rom g r) t = memRead (.rom g r) s := fun _ _ => rfl
  simp only [snapshot, hlines, hrows, hrom, hoff, hon, hcursor, hblink]

/-! ### The glyph of a character code (44_snapshot R142, R143) -/

section Resolve

variable (snap : Snapshot) {code : Byte}

theorem resolve_cgram (h : code.toNat < 8) : resolve snap code = .glyph snap.glyphMemory[code.toNat] :=
  dif_pos h

theorem resolve_resolutionError (hlo : 8 ≤ code.toNat) (hhi : code.toNat ≤ 31) :
    resolve snap code = .resolutionError code := by
  have hbase : code.toNat < Config.codeRomBase := Nat.lt_succ_of_le hhi
  rw [resolve, dif_neg (Nat.not_lt.2 hlo), if_pos hbase]

/-- From `CODE_ROM_BASE` on, `Resolve` looks the code up in the ROM, which ends after 96 glyphs. -/
theorem resolve_of_codeRomBase_le (h : 32 ≤ code.toNat) :
    resolve snap code = if hg : code.toNat - 32 < 96 then .glyph snap.glyphRom[code.toNat - 32] else .noValue code := by
  have hbase : ¬ code.toNat < Config.codeRomBase := Nat.not_lt.2 h
  rw [resolve, dif_neg (by omega), if_neg hbase]
  rfl

theorem resolve_rom (g : Fin 96) (h : code.toNat = g.val + 32) : resolve snap code = .glyph snap.glyphRom[g.val] := by
  have hg : code.toNat - 32 = g.val := by omega
  simp only [resolve_of_codeRomBase_le snap (by omega : 32 ≤ code.toNat), hg, dif_pos g.isLt]

theorem resolve_noValue (h : 128 ≤ code.toNat) : resolve snap code = .noValue code := by
  rw [resolve_of_codeRomBase_le snap (by omega), dif_neg (by omega)]

end Resolve

/-- A write in Display mode stores any code, whether or not it has a glyph (43_data_write R131). -/
theorem exec_write_stores_code (s : State) (code : Byte) (l : Fin 2) (c : Fin 40) (hac : s.ac = .display l c) :
    ∃ t, exec (.write code) s = .next t ∧ memRead (.dd l c) t = code :=
  ⟨_, exec_write_display hac code, (memRead_writeDisplay code l c s _).trans (if_pos rfl)⟩

/-- Settles O55: one lemma per range of codes; the space code is ROM glyph 0 as 0x20 = 0 + 32. -/
theorem resolveCodesBelow128 : Obligations.ResolveCodesBelow128 :=
  ⟨exec_write_stores_code, fun snap _ =>
    ⟨resolve_cgram snap, resolve_resolutionError snap, resolve_rom snap, resolve_rom snap (code := 0x20) 0 rfl⟩⟩

/-- Settles O56: the ROM ends with the glyph of code 127, and the store resolves nothing. -/
theorem resolveCodesFrom128HaveNoValue : Obligations.ResolveCodesFrom128HaveNoValue := fun code hcode =>
  ⟨fun snap => resolve_noValue snap hcode, fun s => exec_write_stores_code s code⟩

/-! ### The visible window (44_snapshot R144) -/

@[simp] theorem length_window (width : Nat) (snap : Snapshot) (l : Fin 2) : (window width snap l).length = width := by
  simp [window]

/-- The j-th place of the window shows the column j places right of the offset, around the line. -/
theorem getElem?_window {width j : Nat} (hj : j < width) (snap : Snapshot) (l : Fin 2) :
    (window width snap l)[j]? = some (snap.lines[l.val])[(snap.scrollOffset + Fin.ofNat 40 j).val] := by
  simp [window, hj]

/-- The column at a column's window position is that column. -/
theorem scrollOffset_add_windowPosition (off c : Fin 40) : off + Fin.ofNat 40 (windowPosition off c).val = c := by
  rw [Fin.ofNat_val_eq_self]
  exact add_sub_cancel off c

/-- Settles O58: the window lists the columns from the offset on, and a column's window position is its place in that list. -/
theorem windowIsTheCellsFromTheOffset : Obligations.WindowIsTheCellsFromTheOffset := by
  intro width snap l _
  refine ⟨length_window width snap l, fun j hj => ?_, fun c hc => ?_⟩
  · have hcol : (snap.scrollOffset + Fin.ofNat 40 j).val = (snap.scrollOffset.val + j) % 40 := by
      rw [Fin.val_add, Fin.val_ofNat, Nat.add_mod_mod]
    simp only [getElem?_window hj, hcol]
  · simp only [getElem?_window hc, scrollOffset_add_windowPosition]

end Sys2Proof.Machine

/-! # The exceptions: the one refusal of a step, and the error of the rendering path (60_exceptions) -/

namespace Sys2Proof.Machine

/-! ### The words without a successor are the ill-formed instructions (30_encoding R72, 42_commands R120; decision D15, log 9) -/

/-- SETDD's byte is 0x80 plus the flat address, so its hole bytes are the holes of the address map. -/
theorem holeWord_setdd (a : BitVec 7) : holeWord (0b01#2 ++ a) = !(Instr.setdd a).wellFormed := by
  have hbyte : (byteOf (0b01#2 ++ a)).toNat = 0x80 + a.toNat := by revert a; decide
  have hrs : rsOf (0b01#2 ++ a) = 0 := by revert a; decide
  rw [Bool.eq_iff_iff, Bool.not_eq_true', setdd_wellFormed_eq_false_iff, ddCell_eq_none_iff]
  simp only [holeWord, hrs, hbyte, decide_true, Bool.true_and, Bool.or_eq_true, Bool.and_eq_true, decide_eq_true_eq]
  omega

theorem holeWord_eq_not_wellFormed (w : BusWord) : holeWord w = !(decodeWord w).wellFormed := by
  induction w using busWord_rows with
  | nop => decide
  | clear => decide
  | home x => revert x; decide
  | entry x => revert x; decide
  | dispctl x => revert x; decide
  | curshift x => revert x; decide
  | dispshift x => revert x; decide
  | funcset x => revert x; decide
  | setcg x => revert x; decide
  | setdd a => rw [decodeWord_setdd]; exact holeWord_setdd a
  | write data =>
    have hrs : rsOf (0b1#1 ++ data) = 1 := rsOf_busWord 1 data
    rw [decodeWord_write, holeWord, hrs]
    rfl

/-! ### An instruction answers a next state exactly when it is well formed -/

theorem exec_of_wellFormed_eq_false {i : Instr} (h : i.wellFormed = false) (s : State) :
    exec i s = .refused .setDDOutOfRange := by
  obtain ⟨a, rfl, hnone⟩ := (illFormedIsASetddHole i).1 h
  exact exec_setdd_hole hnone s

theorem exists_exec_of_wellFormed {i : Instr} (h : i.wellFormed = true) (s : State) : ∃ t, exec i s = .next t := by
  cases hex : exec i s with
  | next t => exact ⟨t, rfl⟩
  | fault f => exact absurd hex (exec_ne_fault i s f)
  | refused r =>
    obtain ⟨a, rfl, hnone, -⟩ := exec_refused hex
    cases h.symm.trans ((setdd_wellFormed_eq_false_iff a).2 hnone)

/-- Settles O19: a step that completes no word answers, and one that completes a word does what the decoded instruction does,
which is refused exactly when it is ill-formed; no fault exists to be answered. -/
theorem stepAnswersUnlessASetddHole : Obligations.StepAnswersUnlessASetddHole := by
  intro s
  refine ⟨nofun, fun hnot => ?_, fun w hw hhole => ?_⟩
  · cases hw : completedWord s with
    | none =>
      obtain ⟨_, _, hs⟩ := step_of_completedWord_none hw
      exact ⟨_, hs⟩
    | some w =>
      rw [step_of_completedWord_some hw]
      refine exists_exec_of_wellFormed ?_ _
      simpa [holeWord_eq_not_wellFormed] using hnot w hw
  · rw [step_of_completedWord_some hw]
    refine exec_of_wellFormed_eq_false ?_ _
    simpa [holeWord_eq_not_wellFormed] using hhole

/-! ### The error of the rendering path (60_exceptions R152) -/

/-- The codes below 8 and from 32 on have a glyph or no value; each code between raises the error with itself as its value
(44_snapshot R142, R143). -/
theorem resolve_eq_resolutionError_iff (snap : Snapshot) (code e : Byte) :
    resolve snap code = .resolutionError e ↔ (8 ≤ code.toNat ∧ code.toNat ≤ 31) ∧ e = code := by
  obtain hlt | ⟨hlo, hhi⟩ | hge : code.toNat < 8 ∨ (8 ≤ code.toNat ∧ code.toNat ≤ 31) ∨ 32 ≤ code.toNat := by omega
  · simp [resolve_cgram snap hlt, Nat.not_le.2 hlt]
  · simp [resolve_resolutionError snap hlo hhi, hlo, hhi, eq_comm]
  · have hne : resolve snap code ≠ .resolutionError e := by
      rw [resolve_of_codeRomBase_le snap hge]
      split <;> nofun
    have hhi : ¬ code.toNat ≤ 31 := by omega
    simp [hne, hhi]

theorem exists_resolve_eq_resolutionError_iff (snap : Snapshot) (code : Byte) :
    (∃ e, resolve snap code = .resolutionError e) ↔ 8 ≤ code.toNat ∧ code.toNat ≤ 31 := by
  simp only [resolve_eq_resolutionError_iff, exists_and_left, exists_eq, and_true]

/-- Settles O57: the codes that raise the error, its value, and the same codes cell by cell; a write resolves nothing. -/
theorem resolutionErrorExactlyCodes8To31 : Obligations.ResolutionErrorExactlyCodes8To31 := by
  refine ⟨exists_resolve_eq_resolutionError_iff, fun snap code e h => ?_, fun s v => exists_exec_write v s, fun snap => ?_⟩
  · exact ((resolve_eq_resolutionError_iff snap code e).1 h).2
  · simp only [Snapshot.hasInvalidCode, exists_resolve_eq_resolutionError_iff]

end Sys2Proof.Machine

/-! # The end of the input (70_reset_and_hazards) -/

namespace Sys2Proof.Machine

/-- A step with no event to take is idle (R178; log 1). -/
theorem step_idle {s : State} (hp : s.pins = []) : step s = .next s := by
  simp [step, takePinEvent, hp]

/-- Settles O9, by induction on the number of steps: each is idle and leaves the same empty input to the next. -/
theorem noEventNoChange : Obligations.NoEventNoChange := by
  intro s n hp
  induction n with
  | zero => rfl
  | succ n ih => rw [runSteps_next (step_idle hp), ih]

end Sys2Proof.Machine
